-- ==== Sys2Proof/Word.lean ====
section
/-! DEFINITION. The word types of the core: bytes, 16-bit words, register numbers, the flag register's number
(rules R7, R21, R91 to R93). -/

namespace Sys2Proof

/-- An 8-bit byte: a memory cell, a general register, a timer (R7, R21, R26, R29). -/
abbrev Byte := BitVec 8

/-- A 16-bit word: an instruction word, `I`, `PC`, a stack entry (R23, R24, R25, R90). -/
abbrev Word := BitVec 16

/-- A 12-bit address literal `nnn` (R93). -/
abbrev Addr12 := BitVec 12

/-- A 4-bit literal `n`, the sprite height (R93). -/
abbrev Nibble := BitVec 4

/-- A general register's number, 0 to 15; no other number can be written in an instruction (R21). -/
abbrev Reg := Fin 16

/-- `VF`, general register 15, which some instructions write as a flag (R22). -/
abbrev VF : Reg := 15

/-- `V0`, general register 0, the implicit operand of `JP V0, addr` (R131). -/
abbrev V0 : Reg := 0

/-- Bytes of memory (R6, R60). -/
abbrev memSize : Nat := 4096

/-- Where programs are loaded and where execution starts after reset (R6, R26, R282). -/
abbrev loadAddress : Nat := 0x200

/-- The longest program load-program takes, `4096 - 0x200` (R68, R263). -/
abbrev maxProgram : Nat := 3584

end Sys2Proof
end

