-- ==== Sys2Proof/Syntax.lean ====
section
/-! DEFINITION. The instruction set as syntax: one constructor per row of spec/opcode_table.json (R95), its operands the
fields its format names (R91, R92). -/

namespace Sys2Proof

/-- The 34 instructions (R95, R96). Register operands are `x` and `y`; `kk`, `nnn`, `n` are the three immediates (R93).
A word that matches no row is no instruction: the decoder rejects it by name, and the cycle gives it rule R133. -/
inductive Instr where
  /-- `CLS`, 00E0 (R203). -/
  | cls
  /-- `RET`, 00EE (R124). -/
  | ret
  /-- `JP addr`, 1nnn (R125). -/
  | jp (nnn : Addr12)
  /-- `CALL addr`, 2nnn (R126). -/
  | call (nnn : Addr12)
  /-- `SE Vx, kk`, 3xkk (R127). -/
  | seByte (x : Reg) (kk : Byte)
  /-- `SNE Vx, kk`, 4xkk (R128). -/
  | sneByte (x : Reg) (kk : Byte)
  /-- `SE Vx, Vy`, 5xy0 (R129). -/
  | seReg (x y : Reg)
  /-- `LD Vx, kk`, 6xkk (R150). -/
  | ldByte (x : Reg) (kk : Byte)
  /-- `ADD Vx, kk`, 7xkk (R151). -/
  | addByte (x : Reg) (kk : Byte)
  /-- `LD Vx, Vy`, 8xy0 (R152). -/
  | ldReg (x y : Reg)
  /-- `OR Vx, Vy`, 8xy1 (R153). -/
  | orReg (x y : Reg)
  /-- `AND Vx, Vy`, 8xy2 (R154). -/
  | andReg (x y : Reg)
  /-- `XOR Vx, Vy`, 8xy3 (R155). -/
  | xorReg (x y : Reg)
  /-- `ADD Vx, Vy`, 8xy4 (R156). -/
  | addReg (x y : Reg)
  /-- `SUB Vx, Vy`, 8xy5 (R157). -/
  | subReg (x y : Reg)
  /-- `SHR Vx {, Vy}`, 8xy6 (R159). -/
  | shr (x y : Reg)
  /-- `SUBN Vx, Vy`, 8xy7 (R158). -/
  | subnReg (x y : Reg)
  /-- `SHL Vx {, Vy}`, 8xyE (R160). -/
  | shl (x y : Reg)
  /-- `SNE Vx, Vy`, 9xy0 (R130). -/
  | sneReg (x y : Reg)
  /-- `LD I, addr`, Annn (R180). -/
  | ldI (nnn : Addr12)
  /-- `JP V0, addr`, Bnnn (R131). -/
  | jpV0 (nnn : Addr12)
  /-- `RND Vx, kk`, Cxkk (R161). -/
  | rnd (x : Reg) (kk : Byte)
  /-- `DRW Vx, Vy, n`, Dxyn (R204). -/
  | drw (x y : Reg) (n : Nibble)
  /-- `SKP Vx`, Ex9E (R223). -/
  | skp (x : Reg)
  /-- `SKNP Vx`, ExA1 (R224). -/
  | sknp (x : Reg)
  /-- `LD Vx, DT`, Fx07 (R220). -/
  | ldVxDt (x : Reg)
  /-- `LD Vx, K`, Fx0A (R225). -/
  | ldVxK (x : Reg)
  /-- `LD DT, Vx`, Fx15 (R221). -/
  | ldDtVx (x : Reg)
  /-- `LD ST, Vx`, Fx18 (R222). -/
  | ldStVx (x : Reg)
  /-- `ADD I, Vx`, Fx1E (R181). -/
  | addIVx (x : Reg)
  /-- `LD F, Vx`, Fx29 (R182). -/
  | ldFVx (x : Reg)
  /-- `LD B, Vx`, Fx33 (R183). -/
  | ldBVx (x : Reg)
  /-- `LD [I], Vx`, Fx55 (R184). -/
  | storeRegs (x : Reg)
  /-- `LD Vx, [I]`, Fx65 (R185). -/
  | loadRegs (x : Reg)
deriving DecidableEq, Repr

end Sys2Proof
end

