-- ==== Sys2Proof/WellFormed.lean ====
section
/-! DEFINITION. The range checks on operands (R92, R93): what a number must satisfy to be an operand, the operands of each
instruction as numbers, and the check of a whole instruction. -/

namespace Sys2Proof

/-- The four kinds of operand an instruction word can hold (R92, R93). -/
inductive OperandKind where
  /-- `x` or `y`, a register number. -/
  | reg
  /-- `kk`, an 8-bit literal. -/
  | byte
  /-- `nnn`, a 12-bit address. -/
  | addr
  /-- `n`, a sprite height. -/
  | height
deriving DecidableEq, Repr

/-- How many values a kind of operand has: a register field is 4 bits, `kk` 8, `nnn` 12, `n` 4 (R92, R93). -/
def OperandKind.count : OperandKind → Nat
  | .reg => 16
  | .byte => 256
  | .addr => 4096
  | .height => 16

/-- An operand as an assembler would write it: a kind and a number, not yet known to be in range (R101). -/
structure Operand where
  kind : OperandKind
  val : Nat
deriving DecidableEq, Repr

/-- The number fits the field its kind names (R92, R93). -/
def Operand.inRange (o : Operand) : Bool := o.val < o.kind.count

/-- The operands of an instruction, in the order the assembler writes them (R101). -/
def Instr.operands : Instr → List Operand
  | .cls => []
  | .ret => []
  | .jp nnn => [⟨.addr, nnn.toNat⟩]
  | .call nnn => [⟨.addr, nnn.toNat⟩]
  | .seByte x kk => [⟨.reg, x⟩, ⟨.byte, kk.toNat⟩]
  | .sneByte x kk => [⟨.reg, x⟩, ⟨.byte, kk.toNat⟩]
  | .seReg x y => [⟨.reg, x⟩, ⟨.reg, y⟩]
  | .ldByte x kk => [⟨.reg, x⟩, ⟨.byte, kk.toNat⟩]
  | .addByte x kk => [⟨.reg, x⟩, ⟨.byte, kk.toNat⟩]
  | .ldReg x y => [⟨.reg, x⟩, ⟨.reg, y⟩]
  | .orReg x y => [⟨.reg, x⟩, ⟨.reg, y⟩]
  | .andReg x y => [⟨.reg, x⟩, ⟨.reg, y⟩]
  | .xorReg x y => [⟨.reg, x⟩, ⟨.reg, y⟩]
  | .addReg x y => [⟨.reg, x⟩, ⟨.reg, y⟩]
  | .subReg x y => [⟨.reg, x⟩, ⟨.reg, y⟩]
  | .shr x y => [⟨.reg, x⟩, ⟨.reg, y⟩]
  | .subnReg x y => [⟨.reg, x⟩, ⟨.reg, y⟩]
  | .shl x y => [⟨.reg, x⟩, ⟨.reg, y⟩]
  | .sneReg x y => [⟨.reg, x⟩, ⟨.reg, y⟩]
  | .ldI nnn => [⟨.addr, nnn.toNat⟩]
  | .jpV0 nnn => [⟨.addr, nnn.toNat⟩]
  | .rnd x kk => [⟨.reg, x⟩, ⟨.byte, kk.toNat⟩]
  | .drw x y n => [⟨.reg, x⟩, ⟨.reg, y⟩, ⟨.height, n.toNat⟩]
  | .skp x => [⟨.reg, x⟩]
  | .sknp x => [⟨.reg, x⟩]
  | .ldVxDt x => [⟨.reg, x⟩]
  | .ldVxK x => [⟨.reg, x⟩]
  | .ldDtVx x => [⟨.reg, x⟩]
  | .ldStVx x => [⟨.reg, x⟩]
  | .addIVx x => [⟨.reg, x⟩]
  | .ldFVx x => [⟨.reg, x⟩]
  | .ldBVx x => [⟨.reg, x⟩]
  | .storeRegs x => [⟨.reg, x⟩]
  | .loadRegs x => [⟨.reg, x⟩]

/-- Every operand of the instruction is in range. An `Instr` carries its operands in types of exactly these ranges, so
every one passes (R92: register fields are "always masked to 4 bits by construction"); what the check can refuse is an
`Operand` written as a number. -/
def Instr.wellFormed (i : Instr) : Bool := i.operands.all Operand.inRange

/-- A word of the opcode table given as a number of `nbits` bits: refused unless it is a number of at most 16 bits
(R90) that fits the bits it is given. -/
def tableWord? (nbits w : Nat) : Option Word :=
  if nbits ≤ 16 ∧ w < 2 ^ nbits then some (BitVec.ofNat 16 w) else none

end Sys2Proof
end

