-- ==== Sys2Proof/Decode.lean ====
section
/-! DEFINITION. Decoding (R90 to R98) and, after it, encoding (R91, R95). The decoder dispatches on the top nibble and then
on the low byte or low nibble, as R94 says; the encoder is written from the patterns of R95. All numeric opcode values are
the spec's decision D1 (log entry 12). -/

namespace Sys2Proof

/-- Why a list of bytes is not an instruction. -/
inductive Reject where
  /-- Fewer than the two bytes every instruction has (R90). -/
  | truncated
  /-- The word matches no row of the opcode map (R97, R98). -/
  | unrecognised (w : Word)
deriving DecidableEq, Repr

/-! ## Fields (R92) -/

/-- `op = w[15:12]`. -/
def opField (w : Word) : BitVec 4 := w.extractLsb' 12 4

/-- `x = w[11:8]`. -/
def xField (w : Word) : Reg := (w.extractLsb' 8 4).toFin

/-- `y = w[7:4]`. -/
def yField (w : Word) : Reg := (w.extractLsb' 4 4).toFin

/-- `n = w[3:0]`. -/
def nField (w : Word) : Nibble := w.extractLsb' 0 4

/-- `kk = w[7:0]`. -/
def kkField (w : Word) : Byte := w.extractLsb' 0 8

/-- `nnn = w[11:0]`. -/
def nnnField (w : Word) : Addr12 := w.extractLsb' 0 12

/-! ## Decoding (R94, R95) -/

/-- Top nibble 0: only the two full words are instructions (R95 rows 1 and 2, R98, decision D15). -/
def decodeFamily0 (w : Word) : Option Instr :=
  match (nnnField w).toNat with
  | 0x0E0 => some .cls
  | 0x0EE => some .ret
  | _ => none

/-- Top nibble 8: the low nibble selects (R95 rows 10 to 18). -/
def decodeFamily8 (w : Word) : Option Instr :=
  match (nField w).toNat with
  | 0x0 => some (.ldReg (xField w) (yField w))
  | 0x1 => some (.orReg (xField w) (yField w))
  | 0x2 => some (.andReg (xField w) (yField w))
  | 0x3 => some (.xorReg (xField w) (yField w))
  | 0x4 => some (.addReg (xField w) (yField w))
  | 0x5 => some (.subReg (xField w) (yField w))
  | 0x6 => some (.shr (xField w) (yField w))
  | 0x7 => some (.subnReg (xField w) (yField w))
  | 0xE => some (.shl (xField w) (yField w))
  | _ => none

/-- Top nibble E: the low byte selects (R95 rows 24 and 25). -/
def decodeFamilyE (w : Word) : Option Instr :=
  match (kkField w).toNat with
  | 0x9E => some (.skp (xField w))
  | 0xA1 => some (.sknp (xField w))
  | _ => none

/-- Top nibble F: the low byte selects (R95 rows 26 to 34). -/
def decodeFamilyF (w : Word) : Option Instr :=
  match (kkField w).toNat with
  | 0x07 => some (.ldVxDt (xField w))
  | 0x0A => some (.ldVxK (xField w))
  | 0x15 => some (.ldDtVx (xField w))
  | 0x18 => some (.ldStVx (xField w))
  | 0x1E => some (.addIVx (xField w))
  | 0x29 => some (.ldFVx (xField w))
  | 0x33 => some (.ldBVx (xField w))
  | 0x55 => some (.storeRegs (xField w))
  | 0x65 => some (.loadRegs (xField w))
  | _ => none

/-- The instruction a word is, if it is one: "the top 4 bits select a family; secondary dispatch on the low byte or low
nibble as required" (R94). Four bits have sixteen values, so the last arm is never taken. -/
def decodeInstr (w : Word) : Option Instr :=
  match (opField w).toNat with
  | 0x0 => decodeFamily0 w
  | 0x1 => some (.jp (nnnField w))
  | 0x2 => some (.call (nnnField w))
  | 0x3 => some (.seByte (xField w) (kkField w))
  | 0x4 => some (.sneByte (xField w) (kkField w))
  | 0x5 => if nField w = 0 then some (.seReg (xField w) (yField w)) else none
  | 0x6 => some (.ldByte (xField w) (kkField w))
  | 0x7 => some (.addByte (xField w) (kkField w))
  | 0x8 => decodeFamily8 w
  | 0x9 => if nField w = 0 then some (.sneReg (xField w) (yField w)) else none
  | 0xA => some (.ldI (nnnField w))
  | 0xB => some (.jpV0 (nnnField w))
  | 0xC => some (.rnd (xField w) (kkField w))
  | 0xD => some (.drw (xField w) (yField w) (nField w))
  | 0xE => decodeFamilyE w
  | 0xF => decodeFamilyF w
  | _ => none

/-- Decoding a word, total on all 65536 (R94): an instruction, or rejected by name (R97). -/
def decodeWord (w : Word) : Except Reject Instr :=
  match decodeInstr w with
  | some i => .ok i
  | none => .error (.unrecognised w)

/-- The instruction word of two consecutive bytes, the first at the lower address: big-endian (R65). -/
def wordOfBytes (hi lo : Byte) : Word := hi ++ lo

/-- Decoding a list of bytes: the first instruction and the bytes after it, or a rejection by name (R65, R90). -/
def decode : List Byte → Except Reject (Instr × List Byte)
  | hi :: lo :: rest => (decodeWord (wordOfBytes hi lo)).map fun i => (i, rest)
  | _ => .error .truncated

/-- The byte at the lower address of a word as it stands in memory, bits 15 to 8 (R65). -/
def highByte (w : Word) : Byte := w.extractLsb' 8 8

/-- The byte at the higher address, bits 7 to 0 (R65). -/
def lowByte (w : Word) : Byte := w.extractLsb' 0 8

/-- What the decoder reads from the word numbered `w` of a row of spec/opcode_table.json with `nbits` bits, laid out as the
hardware stores it, the high byte first (R65). -/
def decodeTableWord (nbits w : Nat) : Option Instr :=
  match tableWord? nbits w with
  | some word =>
    match decode [highByte word, lowByte word] with
    | .ok (i, _) => some i
    | .error _ => none
  | none => none

/-! ## Encoding (R91, R95) -/

/-- A register number as the four bits of its field. -/
def regBits (r : Reg) : BitVec 4 := BitVec.ofFin r

/-- Format `XKK`: opcode digit, `x`, `kk` (R91). -/
def formatXKK (op : BitVec 4) (x : Reg) (kk : Byte) : Word := op ++ regBits x ++ kk

/-- Format `XYN`: opcode digit, `x`, `y`, low digit (R91). -/
def formatXYN (op : BitVec 4) (x y : Reg) (low : BitVec 4) : Word := op ++ regBits x ++ regBits y ++ low

/-- Format `NNN`: opcode digit, `nnn` (R91). -/
def formatNNN (op : BitVec 4) (nnn : Addr12) : Word := op ++ nnn

/-- The word of an instruction (R91, R95). -/
def encode : Instr → Word
  | .cls => 0x00E0
  | .ret => 0x00EE
  | .jp nnn => formatNNN 0x1 nnn
  | .call nnn => formatNNN 0x2 nnn
  | .seByte x kk => formatXKK 0x3 x kk
  | .sneByte x kk => formatXKK 0x4 x kk
  | .seReg x y => formatXYN 0x5 x y 0x0
  | .ldByte x kk => formatXKK 0x6 x kk
  | .addByte x kk => formatXKK 0x7 x kk
  | .ldReg x y => formatXYN 0x8 x y 0x0
  | .orReg x y => formatXYN 0x8 x y 0x1
  | .andReg x y => formatXYN 0x8 x y 0x2
  | .xorReg x y => formatXYN 0x8 x y 0x3
  | .addReg x y => formatXYN 0x8 x y 0x4
  | .subReg x y => formatXYN 0x8 x y 0x5
  | .shr x y => formatXYN 0x8 x y 0x6
  | .subnReg x y => formatXYN 0x8 x y 0x7
  | .shl x y => formatXYN 0x8 x y 0xE
  | .sneReg x y => formatXYN 0x9 x y 0x0
  | .ldI nnn => formatNNN 0xA nnn
  | .jpV0 nnn => formatNNN 0xB nnn
  | .rnd x kk => formatXKK 0xC x kk
  | .drw x y n => formatXYN 0xD x y n
  | .skp x => formatXKK 0xE x 0x9E
  | .sknp x => formatXKK 0xE x 0xA1
  | .ldVxDt x => formatXKK 0xF x 0x07
  | .ldVxK x => formatXKK 0xF x 0x0A
  | .ldDtVx x => formatXKK 0xF x 0x15
  | .ldStVx x => formatXKK 0xF x 0x18
  | .addIVx x => formatXKK 0xF x 0x1E
  | .ldFVx x => formatXKK 0xF x 0x29
  | .ldBVx x => formatXKK 0xF x 0x33
  | .storeRegs x => formatXKK 0xF x 0x55
  | .loadRegs x => formatXKK 0xF x 0x65

/-- The two bytes of an instruction as they stand in memory, lower address first (R65, R90). -/
def encodeBytes (i : Instr) : List Byte := [highByte (encode i), lowByte (encode i)]

/-! ## The opcode map as match and mask pairs (R95) -/

/-- The `match` column of R95. -/
def matchBits : Instr → Word
  | .cls => 0x00E0
  | .ret => 0x00EE
  | .jp _ => 0x1000
  | .call _ => 0x2000
  | .seByte _ _ => 0x3000
  | .sneByte _ _ => 0x4000
  | .seReg _ _ => 0x5000
  | .ldByte _ _ => 0x6000
  | .addByte _ _ => 0x7000
  | .ldReg _ _ => 0x8000
  | .orReg _ _ => 0x8001
  | .andReg _ _ => 0x8002
  | .xorReg _ _ => 0x8003
  | .addReg _ _ => 0x8004
  | .subReg _ _ => 0x8005
  | .shr _ _ => 0x8006
  | .subnReg _ _ => 0x8007
  | .shl _ _ => 0x800E
  | .sneReg _ _ => 0x9000
  | .ldI _ => 0xA000
  | .jpV0 _ => 0xB000
  | .rnd _ _ => 0xC000
  | .drw _ _ _ => 0xD000
  | .skp _ => 0xE09E
  | .sknp _ => 0xE0A1
  | .ldVxDt _ => 0xF007
  | .ldVxK _ => 0xF00A
  | .ldDtVx _ => 0xF015
  | .ldStVx _ => 0xF018
  | .addIVx _ => 0xF01E
  | .ldFVx _ => 0xF029
  | .ldBVx _ => 0xF033
  | .storeRegs _ => 0xF055
  | .loadRegs _ => 0xF065

/-- The `mask` column of R95: all of the word for a `FIXED` row, the top digit for `NNN`, `XKK` and `DRW`, the top and low
digits for the other `XYN` rows, all but `x` for `XSS`. -/
def maskBits : Instr → Word
  | .cls => 0xFFFF
  | .ret => 0xFFFF
  | .jp _ => 0xF000
  | .call _ => 0xF000
  | .seByte _ _ => 0xF000
  | .sneByte _ _ => 0xF000
  | .seReg _ _ => 0xF00F
  | .ldByte _ _ => 0xF000
  | .addByte _ _ => 0xF000
  | .ldReg _ _ => 0xF00F
  | .orReg _ _ => 0xF00F
  | .andReg _ _ => 0xF00F
  | .xorReg _ _ => 0xF00F
  | .addReg _ _ => 0xF00F
  | .subReg _ _ => 0xF00F
  | .shr _ _ => 0xF00F
  | .subnReg _ _ => 0xF00F
  | .shl _ _ => 0xF00F
  | .sneReg _ _ => 0xF00F
  | .ldI _ => 0xF000
  | .jpV0 _ => 0xF000
  | .rnd _ _ => 0xF000
  | .drw _ _ _ => 0xF000
  | .skp _ => 0xF0FF
  | .sknp _ => 0xF0FF
  | .ldVxDt _ => 0xF0FF
  | .ldVxK _ => 0xF0FF
  | .ldDtVx _ => 0xF0FF
  | .ldStVx _ => 0xF0FF
  | .addIVx _ => 0xF0FF
  | .ldFVx _ => 0xF0FF
  | .ldBVx _ => 0xF0FF
  | .storeRegs _ => 0xF0FF
  | .loadRegs _ => 0xF0FF

/-- The word satisfies the row of R95 that `i` stands for, whatever `i`'s operands. -/
def matchesRow (i : Instr) (w : Word) : Bool := w &&& maskBits i == matchBits i

end Sys2Proof
end

