-- ==== Sys2Proof/Machine/Flags.lean ====
section
/-! DEFINITION. The values written to `VF` as a flag (R22): the byte 1 or 0. -/

namespace Sys2Proof.Machine

/-- A flag as the byte `VF` gets: 1 or 0 (R22). -/
def flagByte (c : Bool) : Byte := if c then 1 else 0

/-- `ADD Vx, Vy`: 1 when the unsigned sum exceeds 255 (R156). -/
def carryFlag (a b : Byte) : Byte := flagByte (decide (255 < a.toNat + b.toNat))

/-- `SUB Vx, Vy`: 1 when `a ≥ b`, no borrow (R157). -/
def noBorrowFlag (a b : Byte) : Byte := flagByte (decide (b.toNat ≤ a.toNat))

/-- `SUBN Vx, Vy`: 1 when `b > a`, strictly (R158, decision D19; log entry 13). -/
def greaterFlag (a b : Byte) : Byte := flagByte (decide (a.toNat < b.toNat))

/-- `OR`, `AND`, `XOR`: always 0 (R153 to R155). -/
def clearedFlag : Byte := 0

/-- `SHR`: bit 0 of the value shifted (R159). -/
def lowBitFlag (b : Byte) : Byte := flagByte (b.getLsbD 0)

/-- `SHL`: bit 7 of the value shifted (R160). -/
def highBitFlag (b : Byte) : Byte := flagByte (b.getLsbD 7)

end Sys2Proof.Machine
end

