-- ==== Sys2Proof/Config.lean ====
section
/-! DEFINITION. What the spec leaves to the implementation (R6): the parameters that are fixed for one machine, and the
free value of the random draw. -/

namespace Sys2Proof

/-- The parameters of R6 that no instruction and no host operation changes. A `State` carries them as plain data, so that
a statement about every state holds for every value of them (log entries 3 and 4). -/
structure Params where
  /-- `STACK_DEPTH`: the greatest number of return addresses the stack holds; `none` is infinity (R6, R123). -/
  stackDepth : Option Nat
  /-- `FONT`: the 80 bytes reset puts at 0x000 to 0x04F (R6, R41). -/
  font : Vector Byte 80
deriving DecidableEq, Repr

/-- FREE VALUE (log entry 1, DESIGN CHOICE, safe). The byte that the `k`-th draw gives to `RND`. R161: "no relation
between two draws may be assumed"; it has no body a proof could use. -/
opaque Config.drawByte : Nat → Byte

end Sys2Proof
end

