-- ==== Sys2Proof/Machine/State.lean ====
section
/-! DEFINITION. The state of the core as plain data (R20 to R34), the reasons a step could stop, and the state after reset
(R40, R280). -/

namespace Sys2Proof.Machine

/-- The two variants of the instruction set (R1, R32). -/
inductive Mode where
  | legacy
  | extended
deriving DecidableEq, Repr

/-- The fatal events (R240, R241, R242). -/
inductive FatalEvent where
  /-- E1: `RET` with an empty stack. -/
  | stackUnderflow
  /-- E2: `CALL` with a full stack. -/
  | stackOverflow
deriving DecidableEq, Repr

/-- The run status (R34). -/
inductive Status where
  | running
  | fatal (e : FatalEvent)
deriving DecidableEq, Repr

/-- One record of the diagnostic sink, `UnknownOpcode(w, a)` (R244). -/
structure DiagRecord where
  word : Word
  addr : Word
deriving DecidableEq, Repr

/-- Memory as (address, byte) pairs, addresses strictly rising, no pair equal to what an unlisted address reads as. -/
abbrev Memory := List Host.Cell

/-- The framebuffer: 32 rows of 64 one-bit cells, row 0 at the top, column 0 at the left (R27). -/
abbrev Frame := Vector (Vector Bool 64) 32

/-- The whole state. The fields down to `status` are the table of R20; `modeStrap` is the input of R270; `cfg` holds the
parameters of R6; `draws` and `diag` are the model's own (log entries 1 and 2). -/
structure State where
  /-- `V[0..15]` (R21). -/
  v : Vector Byte 16
  /-- `I` (R23). -/
  index : Word
  /-- `PC` (R24). -/
  pc : Word
  /-- `STACK`, the top first (R25). -/
  stack : List Word
  /-- `MEM` (R26). -/
  mem : Memory
  /-- `FB` (R27). -/
  fb : Frame
  /-- `DIRTY` (R28). -/
  dirty : Bool
  /-- `DT` (R29). -/
  dt : Byte
  /-- `ST` (R29). -/
  st : Byte
  /-- `ACC` (R30). -/
  acc : Rat
  /-- `KEY[0..15]`, true for a held key (R31). -/
  key : Vector Bool 16
  /-- `MODE`, as latched by the last reset (R32). -/
  mode : Mode
  /-- `CPS` (R33). -/
  cps : Rat
  /-- `STATUS` (R34). -/
  status : Status
  /-- The `MODE` strap the host presents; the next reset samples it (R32, R270). -/
  modeStrap : Mode
  /-- `STACK_DEPTH` and `FONT` (R6). -/
  cfg : Params
  /-- How many random draws were taken (log entry 1). -/
  draws : Nat
  /-- What the diagnostic sink has been sent, newest first (R244, log entry 2). -/
  diag : List DiagRecord
deriving DecidableEq, Repr

/-- Why the machine would stop outside its state. It has no constructor, and nobody raises it: the spec's two fatal events
are a `STATUS` (R34, R243), and no access, word or operand faults (R240). Safe: a type without values claims no stop. -/
inductive Fault where
deriving DecidableEq, Repr

/-- Why an instruction would be refused. -/
inductive Refusal where
  /-- Raised by an arm of `exec` whose instruction has no meaning yet; no arm raises it now. Safe: a refused run proves
  nothing about the hardware. -/
  | notModelled (mnemonic : String)
deriving DecidableEq, Repr

/-- What a meaning answers. -/
abbrev Result := Host.Outcome State Fault Refusal

/-- A framebuffer with every cell off (R40, R201). -/
def blankFrame : Frame := Vector.replicate 32 (Vector.replicate 64 false)

/-- The state right after construction's reset (R40, R280, R285), for the recommended parameters, the strap at `extended`
and 600 cycles per second (log entries 3 to 6; R40's own values, log entry 7). Memory lists nothing: the font and the
zeros are what unlisted addresses read as. -/
def State.reset : State where
  v := Vector.replicate 16 0
  index := 0
  pc := 0x0200
  stack := []
  mem := []
  fb := blankFrame
  dirty := true
  dt := 0
  st := 0
  acc := 0
  key := Vector.replicate 16 false
  mode := .extended
  cps := 600
  status := .running
  modeStrap := .extended
  cfg := { stackDepth := some 16, font := recommendedFont }
  draws := 0
  diag := []

end Sys2Proof.Machine
end

