-- ==== Sys2Proof/Machine/Memory.lean ====
section
/-! DEFINITION. The memory: 4096 bytes reached only through `MemRead` and `MemWrite`, every address taken `mod 4096`
(R60 to R63), and its canonical form. -/

namespace Sys2Proof.Machine

/-- What an address that memory does not list reads as: the reset contents under the recommended parameters, the font of
R41 at 0x000 to 0x04F and 0 above it (R40, R68; log entries 4 and 7). -/
def unlistedByte (a : Nat) : Byte :=
  if h : a < 80 then recommendedFont[a] else 0

/-- The byte at a reduced address. -/
def lookupByte : Memory → Nat → Byte
  | [], a => unlistedByte a
  | (k, b) :: rest, a => if k = a then b else lookupByte rest a

/-- `MemRead(a, 1)` of R62: the byte at `a mod 4096`; no side effect, never fails. -/
def memRead (m : Memory) (a : Nat) : Byte := lookupByte m (a % memSize)

/-- The entry `(a, b)` in front of `rest`, or nothing where `b` is what an unlisted `a` reads as. -/
def consCell (a : Nat) (b : Byte) (rest : Memory) : Memory :=
  if b = unlistedByte a then rest else (a, b) :: rest

/-- The memory without any entry for the reduced address `a`. -/
def eraseAddr : Memory → Nat → Memory
  | [], _ => []
  | (k, c) :: rest, a => if k = a then eraseAddr rest a else (k, c) :: eraseAddr rest a

/-- The entry `(a, b)` at its place by address. -/
def insertCell : Memory → Nat → Byte → Memory
  | [], a, b => consCell a b []
  | (k, c) :: rest, a, b => if k < a then (k, c) :: insertCell rest a b else consCell a b ((k, c) :: rest)

/-- Setting the byte at a reduced address: the old entry goes and the new one comes in at its place, which keeps the
canonical form. -/
def putByte (m : Memory) (a : Nat) (b : Byte) : Memory := insertCell (eraseAddr m a) a b

/-- `MemWrite(a, 1, b)` of R63: the byte at `a mod 4096` becomes `b`, nothing else changes; never fails. -/
def memWrite (m : Memory) (a : Nat) (b : Byte) : Memory := putByte m (a % memSize) b

/-- Storing bytes at `a`, `a + 1`, ..., each address reduced on its own (R64, R186). -/
def memWriteBytes : Memory → Nat → List Byte → Memory
  | m, _, [] => m
  | m, a, b :: rest => memWriteBytes (memWrite m a b) (a + 1) rest

/-- Reading `n` bytes at `a`, `a + 1`, ..., each address reduced on its own (R64, R186). -/
def memReadBytes (m : Memory) : Nat → Nat → List Byte
  | _, 0 => []
  | a, n + 1 => memRead m a :: memReadBytes m (a + 1) n

/-- Addresses from `low` upward, strictly rising and below 4096, no entry equal to what an unlisted address reads as. -/
def memWfFrom : Nat → Memory → Bool
  | _, [] => true
  | low, (k, b) :: rest => decide (low ≤ k) && decide (k < memSize) && decide (b ≠ unlistedByte k) && memWfFrom (k + 1) rest

/-- The canonical form of a memory. -/
def Memory.wf (m : Memory) : Bool := memWfFrom 0 m

end Sys2Proof.Machine
end

