-- ==== Sys2Proof/Machine/Ops.lean ====
section
/-! DEFINITION. The named operations on the state: one update per piece of state, the register, stack, memory, draw and
diagnostic primitives of R8, and raising a fatal event. -/

namespace Sys2Proof.Machine

/-! ## Updates, one per piece of state that an instruction or the cycle writes -/

/-- `V[r] <- b` (R8, R21). -/
def setV (s : State) (r : Reg) (b : Byte) : State := { s with v := s.v.set r b }

/-- All sixteen registers at once, for the block load (R185). -/
def setAllV (s : State) (v : Vector Byte 16) : State := { s with v := v }

/-- `I <- w` (R8, R23). -/
def setIndex (s : State) (w : Word) : State := { s with index := w }

/-- `pc <- w` (R8, R24). -/
def setPc (s : State) (w : Word) : State := { s with pc := w }

/-- The call stack as a whole (R25). -/
def setStack (s : State) (st : List Word) : State := { s with stack := st }

/-- The memory as a whole (R26). -/
def setMem (s : State) (m : Memory) : State := { s with mem := m }

/-- The framebuffer as a whole (R27). -/
def setFb (s : State) (f : Frame) : State := { s with fb := f }

/-- `DIRTY` (R28). -/
def setDirty (s : State) (d : Bool) : State := { s with dirty := d }

/-- `DT` (R29). -/
def setDt (s : State) (b : Byte) : State := { s with dt := b }

/-- `ST` (R29). -/
def setSt (s : State) (b : Byte) : State := { s with st := b }

/-- `ACC` (R30). -/
def setAcc (s : State) (a : Rat) : State := { s with acc := a }

/-- `KEY` (R31). -/
def setKeys (s : State) (k : Vector Bool 16) : State := { s with key := k }

/-- `CPS` (R33). -/
def setCps (s : State) (r : Rat) : State := { s with cps := r }

/-- `STATUS` (R34). -/
def setStatus (s : State) (x : Status) : State := { s with status := x }

/-- The `MODE` strap (R270). -/
def setStrap (s : State) (m : Mode) : State := { s with modeStrap := m }

/-! ## Registers -/

/-- `V[r]` (R8, R21): no register is hard-wired, every one is read and written alike. -/
def getV (s : State) (r : Reg) : Byte := s.v[r]

/-- The result, then the flag (R163, decision D11; log entry 10): where `x = 15` the flag write wins. -/
def setVFlag (s : State) (x : Reg) (result flag : Byte) : State := setV (setV s x result) VF flag

/-! ## Control flow -/

/-- `pc <- (pc + 2) mod 65536`: the advance of the fetch (R120) and the skip of the six skips (R127). -/
def advancePc (s : State) : State := setPc s (s.pc + 2)

/-- `pc <- (pc - 2) mod 65536`: the rewind of `LD Vx, K` (R225). -/
def rewindPc (s : State) : State := setPc s (s.pc - 2)

/-- A skip: 2 more when the condition holds (R127, R132). -/
def skipIf (c : Bool) (s : State) : State := if c then advancePc s else s

/-- Taking a fatal event (R8, R243): `STATUS` becomes `Fatal(E)` and no other field of the state it is taken in changes.
An instruction raises it with this; the end of its cycle takes it in the state the cycle began in, so that no write of the
cycle remains (R120, `endCycle`). There is no return from it but reset (R249). -/
def raiseFatal (e : FatalEvent) (s : State) : State := setStatus s (.fatal e)

/-- The stack holds `STACK_DEPTH` entries (R123); never with an infinite depth. -/
def stackFull (s : State) : Bool :=
  match s.cfg.stackDepth with
  | none => false
  | some d => decide (d ≤ s.stack.length)

/-- `push(w)` and go on as `k` says, or raise StackOverflow (R123). -/
def pushThen (w : Word) (s : State) (k : State → State) : State :=
  if stackFull s then raiseFatal .stackOverflow s else k (setStack s (w :: s.stack))

/-- `t <- pop()` and go on as `k` says, or raise StackUnderflow (R122). -/
def popThen (s : State) (k : Word → State → State) : State :=
  match s.stack with
  | [] => raiseFatal .stackUnderflow s
  | t :: rest => k t (setStack s rest)

/-! ## Memory as an instruction reaches it -/

/-- Bytes stored from `I` upward (R186). -/
def storeAtI (s : State) (bytes : List Byte) : State := setMem s (memWriteBytes s.mem s.index.toNat bytes)

/-- `I` moved past a block of `x + 1` bytes, mod 65536 (R184, R185). -/
def advanceIndex (x : Reg) (s : State) : State := setIndex s (s.index + BitVec.ofNat 16 (x.val + 1))

/-! ## The draw and the diagnostic sink -/

/-- `draw()` of R8: the next random byte, a free value (R161, D14; log entry 1). -/
def drawnByte (s : State) : Byte := Config.drawByte s.draws

/-- The draw is used up: the next one is another free value. -/
def countDraw (s : State) : State := { s with draws := s.draws + 1 }

/-- `diag(UnknownOpcode, (w, a))` of R8: one more record on the sink, nothing else (R244). -/
def emitDiag (w a : Word) (s : State) : State := { s with diag := ⟨w, a⟩ :: s.diag }

end Sys2Proof.Machine
end

