-- ==== Sys2Proof/Machine/Operands.lean ====
section
/-! DEFINITION. The operand forms: how each kind of operand becomes the value an instruction works on (R91 to R93, R159,
R182, R183, R186, R204, R225, R226). -/

namespace Sys2Proof.Machine

/-- `zext_16(nnn)`: a 12-bit literal as a 16-bit value (R93). -/
def addrWord (nnn : Addr12) : Word := nnn.setWidth 16

/-- `zext_16(b)`: a byte as a 16-bit value (R7). -/
def byteWord (b : Byte) : Word := b.setWidth 16

/-- The value a shift shifts: `Vy` in legacy mode, `Vx` in extended mode (R159, R160; log entry 14). -/
def shiftSource (s : State) (x y : Reg) : Byte :=
  match s.mode with
  | .legacy => getV s y
  | .extended => getV s x

/-- The key a skip consults, `V[x] mod 16` (R226, decision D12; log entry 11). -/
def keyIndex (s : State) (x : Reg) : Fin 16 := ⟨(getV s x).toNat % 16, Nat.mod_lt _ (by decide)⟩

/-- `KEY[V[x] mod 16]` (R223, R224). -/
def keyHeld (s : State) (x : Reg) : Bool := s.key[keyIndex s x]

/-- The least held key, if there is one: "scan latch 0–15" (R225; log entry 17). -/
def firstKey (s : State) : Option (Fin 16) := (List.finRange 16).find? fun k => s.key[k]

/-- A register number or a key number as a byte. -/
def indexByte (k : Fin 16) : Byte := BitVec.ofNat 8 k.val

/-- The address of the glyph of a byte, `5 b`, not masked (R182, decision D26; log entry 16). -/
def glyphAddress (b : Byte) : Word := byteWord b * 5

/-- The hundreds, tens and ones digits of a byte (R183). -/
def bcdDigits (b : Byte) : List Byte :=
  [BitVec.ofNat 8 (b.toNat / 100), BitVec.ofNat 8 (b.toNat / 10 % 10), BitVec.ofNat 8 (b.toNat % 10)]

/-- `V0` to `Vx`, the lowest first (R184). -/
def regsThrough (s : State) (x : Reg) : List Byte := s.v.toList.take (x.val + 1)

/-- The registers after `V0` to `Vx` were loaded from `I` upward (R185, R186). -/
def loadedRegs (s : State) (x : Reg) : Vector Byte 16 :=
  Vector.ofFn fun k : Fin 16 => if k ≤ x then memRead s.mem (s.index.toNat + k.val) else s.v[k]

/-- The `n` sprite rows at `I` (R204; log entry 18). -/
def spriteRows (s : State) (n : Nibble) : List Byte := memReadBytes s.mem s.index.toNat n.toNat

end Sys2Proof.Machine
end

