-- ==== Sys2Proof/Machine/Alu.lean ====
section
/-! DEFINITION. The load, arithmetic, logic, shift and random instructions (R150 to R163). Sources are read before any
write; the result is written first and the flag last (R163). -/

namespace Sys2Proof.Machine

/-- `LD Vx, kk`: `V[x] <- kk` (R150). -/
def execLdByte (x : Reg) (kk : Byte) (s : State) : Result := .next (setV s x kk)

/-- `ADD Vx, kk`: `V[x] <- (V[x] + kk) mod 256`, no flag (R151). -/
def execAddByte (x : Reg) (kk : Byte) (s : State) : Result := .next (setV s x (getV s x + kk))

/-- `LD Vx, Vy`: `V[x] <- V[y]`, no flag (R152). -/
def execLdReg (x y : Reg) (s : State) : Result := .next (setV s x (getV s y))

/-- `OR Vx, Vy`; `VF <- 0` (R153). -/
def execOr (x y : Reg) (s : State) : Result := .next (setVFlag s x (getV s x ||| getV s y) clearedFlag)

/-- `AND Vx, Vy`; `VF <- 0` (R154). -/
def execAnd (x y : Reg) (s : State) : Result := .next (setVFlag s x (getV s x &&& getV s y) clearedFlag)

/-- `XOR Vx, Vy`; `VF <- 0` (R155). -/
def execXor (x y : Reg) (s : State) : Result := .next (setVFlag s x (getV s x ^^^ getV s y) clearedFlag)

/-- `ADD Vx, Vy`; `VF` is the carry out of bit 7 (R156). -/
def execAddReg (x y : Reg) (s : State) : Result :=
  .next (setVFlag s x (getV s x + getV s y) (carryFlag (getV s x) (getV s y)))

/-- `SUB Vx, Vy`; `VF` is "no borrow" (R157). -/
def execSub (x y : Reg) (s : State) : Result :=
  .next (setVFlag s x (getV s x - getV s y) (noBorrowFlag (getV s x) (getV s y)))

/-- `SUBN Vx, Vy`: `V[x] <- V[y] - V[x]`; `VF` is 1 only when `V[y] > V[x]` (R158). -/
def execSubn (x y : Reg) (s : State) : Result :=
  .next (setVFlag s x (getV s y - getV s x) (greaterFlag (getV s x) (getV s y)))

/-- `SHR Vx {, Vy}`: the source shifted right by one; `VF` is its bit 0 (R159). -/
def execShr (x y : Reg) (s : State) : Result :=
  .next (setVFlag s x (shiftSource s x y >>> 1) (lowBitFlag (shiftSource s x y)))

/-- `SHL Vx {, Vy}`: the source shifted left by one; `VF` is its bit 7 (R160). -/
def execShl (x y : Reg) (s : State) : Result :=
  .next (setVFlag s x (shiftSource s x y <<< 1) (highBitFlag (shiftSource s x y)))

/-- `RND Vx, kk`: `V[x] <- r & kk` for a fresh draw `r` (R161). -/
def execRnd (x : Reg) (kk : Byte) (s : State) : Result := .next (countDraw (setV s x (drawnByte s &&& kk)))

end Sys2Proof.Machine
end

