-- ==== Sys2Proof/Machine/Control.lean ====
section
/-! DEFINITION. The control-flow instructions (R124 to R132). `pc` already holds the instruction's address plus 2 (R9). -/

namespace Sys2Proof.Machine

/-- `RET`: `t <- pop(); pc <- t` (R124). -/
def execRet (s : State) : Result := .next (popThen s fun t s' => setPc s' t)

/-- `JP addr`: `pc <- zext_16(nnn)` (R125). -/
def execJp (nnn : Addr12) (s : State) : Result := .next (setPc s (addrWord nnn))

/-- `CALL addr`: `push(pc); pc <- zext_16(nnn)`, the pushed `pc` already advanced (R126). -/
def execCall (nnn : Addr12) (s : State) : Result := .next (pushThen s.pc s fun s' => setPc s' (addrWord nnn))

/-- `SE Vx, kk`: skip when `V[x] = kk` (R127). -/
def execSeByte (x : Reg) (kk : Byte) (s : State) : Result := .next (skipIf (getV s x == kk) s)

/-- `SNE Vx, kk`: skip when `V[x] ≠ kk` (R128). -/
def execSneByte (x : Reg) (kk : Byte) (s : State) : Result := .next (skipIf (getV s x != kk) s)

/-- `SE Vx, Vy`: skip when `V[x] = V[y]` (R129). -/
def execSeReg (x y : Reg) (s : State) : Result := .next (skipIf (getV s x == getV s y) s)

/-- `SNE Vx, Vy`: skip when `V[x] ≠ V[y]` (R130). -/
def execSneReg (x y : Reg) (s : State) : Result := .next (skipIf (getV s x != getV s y) s)

/-- `JP V0, addr`: `pc <- (zext_16(nnn) + zext_16(V[0])) mod 65536`, in both modes (R131, decision D20; log entry 14). -/
def execJpV0 (nnn : Addr12) (s : State) : Result := .next (setPc s (addrWord nnn + byteWord (getV s V0)))

end Sys2Proof.Machine
end

