-- ==== Sys2Proof/Machine/Display.lean ====
section
/-! DEFINITION. The framebuffer controller and the display instructions (R200 to R205). -/

namespace Sys2Proof.Machine

/-- The cell at row `y` and column `x`; off where there is no such cell. -/
def cell (f : Frame) (y x : Nat) : Bool :=
  if h : y < 32 ∧ x < 64 then (f[y]'h.1)[x]'h.2 else false

/-- The framebuffer with the cell at row `y` and column `x` inverted; no cell outside is written (R202). -/
def toggle (f : Frame) (y x : Nat) : Frame :=
  if h : y < 32 ∧ x < 64 then f.set y ((f[y]'h.1).set x (!cell f y x) h.2) h.1 else f

/-- The framebuffer and the collision result while a sprite is drawn (R202). -/
abbrev Drawing := Frame × Bool

/-- One sprite bit that is 1: a hit if the cell is on, and the cell is inverted (R202). -/
def drawPixel (y x : Nat) (d : Drawing) : Drawing := (toggle d.1 y x, d.2 || cell d.1 y x)

/-- Columns `c` to 7 of one sprite row, `bits` of them left: bit 7 of the byte is column 0, and the row stops at the right
edge (R202). -/
def drawColumns (b : Byte) (py x0 : Nat) : Nat → Drawing → Drawing
  | 0, d => d
  | bits + 1, d =>
    if x0 + (7 - bits) > 63 then d
    else drawColumns b py x0 bits (if b.getLsbD bits then drawPixel py (x0 + (7 - bits)) d else d)

/-- The sprite rows from screen row `py` down, stopping entirely at the bottom edge (R202). -/
def drawRows (x0 : Nat) : Nat → List Byte → Drawing → Drawing
  | _, [], d => d
  | py, b :: rest, d => if py > 31 then d else drawRows x0 (py + 1) rest (drawColumns b py x0 8 d)

/-- `draw-sprite(xs, ys, rows)` of R202: the start wraps mod 64 and mod 32, the pixels clip; the framebuffer after it and
whether a cell went from on to off. -/
def drawSprite (f : Frame) (xs ys : Nat) (rows : List Byte) : Drawing :=
  drawRows (xs % 64) (ys % 32) rows (f, false)

/-- `CLS`: `clear()`, every cell off, then `DIRTY <- 1` (R201, R203). -/
def execCls (s : State) : Result := .next (setDirty (setFb s blankFrame) true)

/-- `DRW Vx, Vy, n`: the coordinates are read before `VF` is written; `VF` is the collision result; `DIRTY <- 1` whatever
changed (R204, decisions D11, D29, D32; log entries 10 and 18). The "reset to 0 first" is overwritten in the same cycle. -/
def execDrw (x y : Reg) (n : Nibble) (s : State) : Result :=
  let drawn := drawSprite s.fb (getV s x).toNat (getV s y).toNat (spriteRows s n)
  .next (setDirty (setV (setFb (setV s VF 0) drawn.1) VF (flagByte drawn.2)) true)

end Sys2Proof.Machine
end

