-- ==== Sys2Proof/Machine/IndexMem.lean ====
section
/-! DEFINITION. The index-register and memory instructions (R180 to R186). -/

namespace Sys2Proof.Machine

/-- `LD I, addr`: `I <- zext_16(nnn)` (R180). -/
def execLdI (nnn : Addr12) (s : State) : Result := .next (setIndex s (addrWord nnn))

/-- `ADD I, Vx`: `I <- (I + V[x]) mod 65536`, no flag (R181, decision D8; log entry 15). -/
def execAddI (x : Reg) (s : State) : Result := .next (setIndex s (s.index + byteWord (getV s x)))

/-- `LD F, Vx`: `I <- 5 V[x]` (R182). -/
def execLdF (x : Reg) (s : State) : Result := .next (setIndex s (glyphAddress (getV s x)))

/-- `LD B, Vx`: the three digits of `V[x]` at `I`, `I + 1`, `I + 2`; `I` unchanged (R183). -/
def execLdB (x : Reg) (s : State) : Result := .next (storeAtI s (bcdDigits (getV s x)))

/-- `LD [I], Vx`: `V0` to `Vx` at `I` upward, then `I <- I + x + 1`, in both modes (R184, decision D20; log entry 14). -/
def execStoreRegs (x : Reg) (s : State) : Result := .next (advanceIndex x (storeAtI s (regsThrough s x)))

/-- `LD Vx, [I]`: `V0` to `Vx` from `I` upward, then `I <- I + x + 1` (R185). -/
def execLoadRegs (x : Reg) (s : State) : Result := .next (advanceIndex x (setAllV s (loadedRegs s x)))

end Sys2Proof.Machine
end

