-- ==== Sys2Proof/Machine/TimersKeys.lean ====
section
/-! DEFINITION. The timer and keypad instructions (R220 to R226). -/

namespace Sys2Proof.Machine

/-- `LD Vx, DT`: `V[x] <- DT`, as it stands before this cycle's timer step (R220). -/
def execLdVxDt (x : Reg) (s : State) : Result := .next (setV s x s.dt)

/-- `LD DT, Vx`: `DT <- V[x]`; `ACC` is not reset (R221). -/
def execLdDtVx (x : Reg) (s : State) : Result := .next (setDt s (getV s x))

/-- `LD ST, Vx`: `ST <- V[x]` (R222). -/
def execLdStVx (x : Reg) (s : State) : Result := .next (setSt s (getV s x))

/-- `SKP Vx`: skip when the key is held (R223). -/
def execSkp (x : Reg) (s : State) : Result := .next (skipIf (keyHeld s x) s)

/-- `SKNP Vx`: skip when the key is not held (R224). -/
def execSknp (x : Reg) (s : State) : Result := .next (skipIf (!keyHeld s x) s)

/-- `LD Vx, K`: the least held key to `V[x]`; with none held, `pc` back to this instruction (R225). -/
def execLdVxK (x : Reg) (s : State) : Result :=
  .next (match firstKey s with
    | some k => setV s x (indexByte k)
    | none => rewindPc s)

end Sys2Proof.Machine
end

