-- ==== Sys2Proof/Machine/Cycle.lean ====
section
/-! DEFINITION. The parts of the cycle of R120 around `Execute`: fetch, the execution of an unrecognised word, the timer
step, and how a cycle ends. -/

namespace Sys2Proof.Machine

/-- `MemRead(pc, 2)`: the instruction word at `PC`, big-endian; each byte's address is reduced
`mod 4096` on its own, and an odd `PC` is fetched like an even one (R65, R66). -/
def fetchWord (s : State) : Word := wordOfBytes (memRead s.mem s.pc.toNat) (memRead s.mem (s.pc.toNat + 1))

/-- An unrecognised word `w` fetched from `a`: one record on the diagnostic sink, nothing else (R133). -/
def execUnrecognised (w a : Word) (s : State) : Result := .next (emitDiag w a s)

/-- `T - 1` floored at zero (R255). -/
def countDown (t : Byte) : Byte := if t = 0 then 0 else t - 1

/-- What one cycle adds to `ACC`: `60 / CPS`, exactly (R255, decision D13; log entry 9). -/
def accIncrement (s : State) : Rat := 60 / s.cps

/-- This cycle's timer step ticks: the accumulator "reaches or exceeds" 1 (R255). -/
def ticks (s : State) : Bool := decide (1 ≤ s.acc + accIncrement s)

/-- `TimerStep()`: one test and at most one tick per cycle (R255, C10): the increment to `ACC`, and on a tick 1 off `ACC`
and one off each timer. -/
def timerStep (s : State) : State :=
  setSt
    (setDt
      (setAcc s (if ticks s then s.acc + accIncrement s - 1 else s.acc + accIncrement s))
      (if ticks s then countDown s.dt else s.dt))
    (if ticks s then countDown s.st else s.st)

/-- How a cycle that began in `s0` ends when the execution left `s1` (R120, R243): a completed one runs the timer step; one
that raised a fatal event leaves `s0` as it was but for `STATUS` (decision D10). -/
def endCycle (s0 s1 : State) : State :=
  match s1.status with
  | .running => timerStep s1
  | .fatal e => raiseFatal e s0

/-- `endCycle` on what the execution answered. -/
def finishCycle (s0 : State) : Result → Result
  | .next s1 => .next (endCycle s0 s1)
  | .fault f => .fault f
  | .refused r => .refused r

/-- The execute phase on a fetched word: the instruction's rule, or R133 (R121). -/
def executeWord (w a : Word) (s : State) : Result :=
  match decodeWord w with
  | .ok i => exec i s
  | .error _ => execUnrecognised w a s

/-- One cycle of a running core: fetch, advance `PC` by 2, decode, execute, end (R120). -/
def runCycle (s : State) : Result := finishCycle s (executeWord (fetchWord s) s.pc (advancePc s))

/-- The word numbered `w` of a table row of `nbits` bits (the bits above are 0), stored where the next fetch reads it, high
byte first (R65); the core must be running to fetch at all (R120). Log entry 21. -/
def placeWord (s : State) (nbits w : Nat) : State :=
  let word : Word := BitVec.ofNat 16 (w % 2 ^ nbits)
  setStatus (setMem s (memWriteBytes s.mem s.pc.toNat [highByte word, lowByte word])) .running

end Sys2Proof.Machine
end

