-- ==== Sys2Proof/Machine/Step.lean ====
section
/-! DEFINITION. `Cycle()` of R120 as the step of the machine, and the host's way to place one instruction. -/

namespace Sys2Proof.Machine

/-- One call of `run-one-cycle()` (R120, R265): a halted core does nothing (R243). -/
def step (s : State) : Host.Outcome State Fault Refusal :=
  match s.status with
  | .running => runCycle s
  | .fatal _ => .next s

/-- The state with the word numbered `w`, of `nbits` bits, where the next fetch reads it. -/
def State.withFetchWord (s : State) (nbits w : Nat) : State := placeWord s nbits w

end Sys2Proof.Machine
end

