-- ==== Sys2Proof/Machine/HostOps.lean ====
section
/-! DEFINITION. The host interface: the operations of R262 to R271, each a function of the state with a reply, each between
two cycles (R296). Their names begin with `host`. -/

namespace Sys2Proof.Machine

/-- An operation the host invokes (R262 to R271). -/
inductive HostOp where
  /-- `reset()` (R262). -/
  | reset
  /-- `load-program(bytes)` (R263). -/
  | loadProgram (bytes : List Byte)
  /-- `set-key(code, pressed)` (R264). -/
  | setKey (code : Nat) (pressed : Bool)
  /-- `run-one-cycle()` (R265). -/
  | runOneCycle
  /-- `get-display-cell(x, y)` (R266). -/
  | getDisplayCell (x y : Nat)
  /-- `is-display-dirty()` (R267). -/
  | isDisplayDirty
  /-- `clear-dirty()` (R268). -/
  | clearDirty
  /-- `get-sound-timer()` (R269). -/
  | getSoundTimer
  /-- `get-delay-timer()` (R269). -/
  | getDelayTimer
  /-- `set-mode(m)` (R270). -/
  | setMode (m : Mode)
  /-- `set-cycle-rate(r)` (R271); `none` is a rate that is no rational number: not a number, or infinite. -/
  | setCycleRate (rate : Option Rat)
deriving DecidableEq, Repr

/-- What an operation reports to the host. -/
inductive HostReply where
  /-- Done; nothing to report. -/
  | done
  /-- The cycle completed (R265). -/
  | completed
  /-- The core is halted by the event, raised at the address (R240, R243). -/
  | halted (e : FatalEvent) (addr : Word)
  /-- The step stopped outside its state; no step does. -/
  | stopped
  /-- A cell or a flag bit. -/
  | bit (b : Bool)
  /-- A timer's value. -/
  | timer (b : Byte)
  /-- H1, `ProgramTooLong`, with the length (R240, R263). -/
  | programTooLong (length : Nat)
  /-- H2, `KeyCodeOutOfRange`, with the code (R240, R264). -/
  | keyCodeOutOfRange (code : Nat)
  /-- H3, `BadCycleRate`, with the rate (R240, R271). -/
  | badCycleRate (rate : Option Rat)
  /-- A display coordinate outside the buffer (R266). -/
  | noSuchCell
deriving DecidableEq, Repr

/-- A memory with the font at 0x000 to 0x04F and 0 elsewhere (R280). -/
def fontMemory (font : Vector Byte 80) : Memory := memWriteBytes [] 0 font.toList

/-- `reset()`: every piece of state at its reset value; `MODE` samples the strap, `CPS` is kept (R280, R40). The strap and
the parameters are the host's; the sink's past output and the count of draws are the model's own (log entries 1, 2, 25). -/
def hostReset (s : State) : State :=
  { State.reset with
    mem := fontMemory s.cfg.font
    mode := s.modeStrap
    cps := s.cps
    modeStrap := s.modeStrap
    cfg := s.cfg
    draws := s.draws
    diag := s.diag }

/-- Construction: a reset with the parameters, the strap and the rate the host presents (R285); a rate that is not a
positive number is refused with H3 (R240). -/
def hostConstruct (cfg : Params) (strap : Mode) (rate : Option Rat) : Except HostReply State :=
  match rate with
  | some r =>
    if 0 < r then .ok (hostReset { State.reset with cfg := cfg, modeStrap := strap, cps := r })
    else .error (.badCycleRate rate)
  | none => .error (.badCycleRate rate)

/-- `load-program(bytes)`: reset, then the bytes from 0x200 upward; refused over 3584 bytes, with no change at all (R263,
R283; log entry 20). -/
def hostLoadProgram (bytes : List Byte) (s : State) : State × HostReply :=
  if bytes.length ≤ maxProgram then
    (setMem (hostReset s) (memWriteBytes (hostReset s).mem loadAddress bytes), .done)
  else (s, .programTooLong bytes.length)

/-- `set-key(code, pressed)`: codes of 16 and above change nothing and are reported as H2 (R264; log entry 19). -/
def hostSetKey (code : Nat) (pressed : Bool) (s : State) : State × HostReply :=
  if h : code < 16 then (setKeys s (s.key.set code pressed h), .done) else (s, .keyCodeOutOfRange code)

/-- What `run-one-cycle()` reports, read off the state it leaves: the recorded address of a fatal event is the retained
`PC` (R240, R243, R265). -/
def cycleReply (s : State) : HostReply :=
  match s.status with
  | .running => .completed
  | .fatal e => .halted e s.pc

/-- `run-one-cycle()` (R265, R120). -/
def hostRunOneCycle (s : State) : State × HostReply :=
  match step s with
  | .next t => (t, cycleReply t)
  | .fault _ => (s, .stopped)
  | .refused _ => (s, .stopped)

/-- `get-display-cell(x, y)`: `FB[y][x]`; refused outside the buffer (R266; log entry 20). -/
def hostGetDisplayCell (x y : Nat) (s : State) : HostReply :=
  if y < 32 ∧ x < 64 then .bit (cell s.fb y x) else .noSuchCell

/-- `set-cycle-rate(r)`: `CPS <- r`, `ACC` kept; refused unless `r` is a positive rational (R271; log entry 20). -/
def hostSetCycleRate (rate : Option Rat) (s : State) : State × HostReply :=
  match rate with
  | some r => if 0 < r then (setCps s r, .done) else (s, .badCycleRate rate)
  | none => (s, .badCycleRate rate)

/-- One host operation: the state it leaves and its reply. -/
def hostOp (op : HostOp) (s : State) : State × HostReply :=
  match op with
  | .reset => (hostReset s, .done)
  | .loadProgram bytes => hostLoadProgram bytes s
  | .setKey code pressed => hostSetKey code pressed s
  | .runOneCycle => hostRunOneCycle s
  | .getDisplayCell x y => (s, hostGetDisplayCell x y s)
  | .isDisplayDirty => (s, .bit s.dirty)
  | .clearDirty => (setDirty s false, .done)
  | .getSoundTimer => (s, .timer s.st)
  | .getDelayTimer => (s, .timer s.dt)
  | .setMode m => (setStrap s m, .done)
  | .setCycleRate rate => hostSetCycleRate rate s

/-- A run: host operations one after another, never overlapping (R296). -/
def hostRun : List HostOp → State → State
  | [], s => s
  | op :: rest, s => hostRun rest (hostOp op s).1

end Sys2Proof.Machine
end

