-- ==== Sys2Proof/Safety.lean ====
section
/-! DEFINITION. What claims call a good state: the invariant of the state, a running core, a parked program (R302), and the
states a run from construction reaches. -/

namespace Sys2Proof.Machine

/-- The core executes cycles (R34). -/
def State.Running (s : State) : Prop := s.status = .running

/-- The stack holds at most `STACK_DEPTH` entries (R25). -/
def stackBounded (s : State) : Bool :=
  match s.cfg.stackDepth with
  | none => true
  | some d => decide (s.stack.length ≤ d)

/-- The legal states: memory in canonical form, the stack within its depth (R25), `ACC` not negative (R30), `CPS` positive
(R33). -/
structure State.Inv (s : State) : Prop where
  memory : s.mem.wf = true
  stack : stackBounded s = true
  acc : 0 ≤ s.acc
  cps : 0 < s.cps

/-- The bounded accumulator of R257 (a): with a rate of at least 60, `ACC` is below 1. -/
def State.AccBounded (s : State) : Prop := 60 ≤ s.cps ∧ 0 ≤ s.acc ∧ s.acc < 1

/-- A parked state: running, and the word at `PC` is a `JP` to `PC` itself (R302, decision D22). -/
def State.Parked (s : State) : Prop :=
  s.status = .running ∧ s.pc.toNat ≤ 0x0FFF ∧ fetchWord s = 0x1000 + s.pc

/-- The states a construction and any host operations after it reach (R285, R296). -/
inductive Reachable : State → Prop where
  | constructed (cfg : Params) (strap : Mode) (rate : Option Rat) (s : State) :
      hostConstruct cfg strap rate = .ok s → Reachable s
  | operated (op : HostOp) (s : State) : Reachable s → Reachable (hostOp op s).1

end Sys2Proof.Machine
end

