-- ==== Sys2Proof/Certificates/Slice0/Obligations.lean ====
section
/-! DEFINITION. The statements about the machine, each from the rules of the spec its docstring names. Unless one says
otherwise they hold in every state, for every operand, `STACK_DEPTH`, `FONT`, `MODE` and `CPS`. In a statement about `exec`,
`pc` already holds the instruction's address plus 2 (R9). -/

open Sys2Proof Sys2Proof.Machine

/-! ## Encoding -/

/-- R91, R95 (the numeric values are the spec's decision D1, log entry 12): decoding the two bytes of an instruction gives
that instruction, at every value of every operand, and leaves the bytes after it. -/
def Obligations.DecodeOfEncodeIsTheInstruction : Prop :=
  ∀ (i : Instr) (rest : List Byte), decode (encodeBytes i ++ rest) = .ok (i, rest)

/-- R94, R95 (D1): a word that decodes to an instruction is that instruction's one encoding, so no bit of it is ignored. -/
def Obligations.EncodeOfDecodeIsTheWord : Prop :=
  ∀ (w : Word) (i : Instr), decodeWord w = .ok i → encode i = w

/-- R94, R95 (D1): "a word `w` is instruction `k` if and only if `w & mask_k = match_k`"; rows are disjoint; a word that
satisfies no row is rejected as unrecognised. -/
def Obligations.DecodingFollowsMatchAndMask : Prop :=
  (∀ (w : Word) (i : Instr), decodeWord w = .ok i → matchesRow i w = true) ∧
  (∀ (w : Word) (i : Instr), matchesRow i w = true →
    ∃ j, decodeWord w = .ok j ∧ matchBits j = matchBits i ∧ maskBits j = maskBits i) ∧
  (∀ (w : Word) (i j : Instr), matchesRow i w = true → matchesRow j w = true →
    matchBits i = matchBits j ∧ maskBits i = maskBits j) ∧
  (∀ w : Word, (∀ i, matchesRow i w = false) → decodeWord w = .error (.unrecognised w))

/-- R98 (its reading of families 0, 5 and 9 is the spec's decision D15, log entry 12): the unrecognised words are exactly
the six sets of its table. -/
def Obligations.UnrecognisedWordsAreTheSixSets : Prop :=
  ∀ w : Word, decodeWord w = .error (.unrecognised w) ↔
    (opField w = 0x0 ∧ w ≠ 0x00E0 ∧ w ≠ 0x00EE) ∨
    (opField w = 0x5 ∧ nField w ≠ 0x0) ∨
    (opField w = 0x8 ∧ (nField w = 0x8 ∨ nField w = 0x9 ∨ nField w = 0xA ∨ nField w = 0xB ∨ nField w = 0xC ∨
      nField w = 0xD ∨ nField w = 0xF)) ∨
    (opField w = 0x9 ∧ nField w ≠ 0x0) ∨
    (opField w = 0xE ∧ kkField w ≠ 0x9E ∧ kkField w ≠ 0xA1) ∨
    (opField w = 0xF ∧ kkField w ≠ 0x07 ∧ kkField w ≠ 0x0A ∧ kkField w ≠ 0x15 ∧ kkField w ≠ 0x18 ∧ kkField w ≠ 0x1E ∧
      kkField w ≠ 0x29 ∧ kkField w ≠ 0x33 ∧ kkField w ≠ 0x55 ∧ kkField w ≠ 0x65)

/-- 95_test_vectors.md section 2.1 (decision D1, log entry 12): at least one word of every top digit from 0 to F, written
out, decodes as its table says; two other words are unrecognised (decision D15). -/
def Obligations.ListedWordsDecodeAsListed : Prop :=
  decodeWord 0x00E0 = .ok .cls ∧ decodeWord 0x1ABC = .ok (.jp 0xABC) ∧ decodeWord 0x2300 = .ok (.call 0x300) ∧
  decodeWord 0x3A7F = .ok (.seByte 0xA 0x7F) ∧ decodeWord 0x4B01 = .ok (.sneByte 0xB 0x01) ∧
  decodeWord 0x5CD0 = .ok (.seReg 0xC 0xD) ∧ decodeWord 0x6E42 = .ok (.ldByte 0xE 0x42) ∧
  decodeWord 0x7FFF = .ok (.addByte 0xF 0xFF) ∧ decodeWord 0x8AB7 = .ok (.subnReg 0xA 0xB) ∧
  decodeWord 0x9120 = .ok (.sneReg 0x1 0x2) ∧ decodeWord 0xA2F0 = .ok (.ldI 0x2F0) ∧
  decodeWord 0xB300 = .ok (.jpV0 0x300) ∧ decodeWord 0xC30F = .ok (.rnd 0x3 0x0F) ∧
  decodeWord 0xD125 = .ok (.drw 0x1 0x2 0x5) ∧ decodeWord 0xE2A1 = .ok (.sknp 0x2) ∧
  decodeWord 0xF50A = .ok (.ldVxK 0x5) ∧ decodeWord 0xF265 = .ok (.loadRegs 0x2) ∧
  decodeWord 0x5121 = .error (.unrecognised 0x5121) ∧ decodeWord 0x01E0 = .error (.unrecognised 0x01E0)

/-! ## The cycle -/

/-- R120, R121 (what a fatal event retains is decision D10, log entry 8): when the two bytes at `PC` decode to `i`, a
running core's step is `exec i` on the state with `PC` advanced by 2, then the timer step; if `i` raised a fatal event, the
state before the cycle with only `STATUS` changed. -/
def Obligations.StepRunsTheDecodedInstruction : Prop :=
  ∀ (s t : State) (i : Instr), s.status = .running → decode (memReadBytes s.mem s.pc.toNat 2) = .ok (i, []) →
    exec i { s with pc := s.pc + 2 } = .next t →
    (t.status = .running → step s = .next (timerStep t)) ∧
    (∀ e, t.status = .fatal e → step s = .next { s with status := .fatal e })

/-- R65 (the wrap is the spec's derivation from R62): the fetched word is big-endian, and each of its two byte addresses is
reduced mod 4096 on its own. -/
def Obligations.FetchIsBigEndianAndWraps : Prop :=
  ∀ s : State, (fetchWord s).toNat =
    (memRead s.mem (s.pc.toNat % 4096)).toNat * 256 + (memRead s.mem ((s.pc.toNat + 1) % 4096)).toNat

/-- R133: an unrecognised word changes nothing but the advance of `PC` and one record (the word and its address) on the
sink, and the cycle's timer step runs. That `diag` holds the sink is the model's choice (log entry 2). -/
def Obligations.UnrecognisedWordOnlyAdvances : Prop :=
  ∀ (s : State) (r : Reject), s.status = .running → decodeWord (fetchWord s) = .error r →
    step s = .next (timerStep { s with pc := s.pc + 2, diag := ⟨fetchWord s, s.pc⟩ :: s.diag })

/-- R243 (decision D10, log entry 8): a halted core's cycle does nothing and reports the same event and address again. -/
def Obligations.HaltedCoreDoesNothing : Prop :=
  ∀ (s : State) (e : FatalEvent), s.status = .fatal e →
    step s = .next s ∧ hostOp .runOneCycle s = (s, .halted e s.pc)

/-- No step and no instruction answers a fault or a refusal: each answers a next state. That a fatal cycle and a halted core
answer one is the model's reading of decision D10 (log entry 8), and that an unrecognised word does is its reading of R133
(log entry 12). A next state is not a completed cycle in the sense of R120 and R265. -/
def Obligations.EveryStepAnswersANextState : Prop :=
  (∀ s : State, ∃ t, step s = .next t) ∧ (∀ (i : Instr) (s : State), ∃ t, exec i s = .next t)

/-- R248, R240, R244: a running core's cycle has one of three ends. It is halted, and then the word was `RET` with an empty
stack or `CALL` with a full one and all the rest of the state is as before; or it sent one record, and then the word was
unrecognised; or the word decoded and it did neither. -/
def Obligations.EachCycleHasAtMostOneEvent : Prop :=
  ∀ s t : State, s.status = .running → step s = .next t →
    (decodeWord (fetchWord s) = .ok .ret ∧ s.stack = [] ∧ t = { s with status := .fatal .stackUnderflow }) ∨
    (∃ nnn d, decodeWord (fetchWord s) = .ok (.call nnn) ∧ s.cfg.stackDepth = some d ∧ d ≤ s.stack.length ∧
      t = { s with status := .fatal .stackOverflow }) ∨
    (decodeWord (fetchWord s) = .error (.unrecognised (fetchWord s)) ∧ t.status = .running ∧
      t.diag = ⟨fetchWord s, s.pc⟩ :: s.diag) ∨
    (∃ i, decodeWord (fetchWord s) = .ok i ∧ t.status = .running ∧ t.diag = s.diag)

/-- R249, and the sentence of R34 that is decision D10 (log entry 8): a halted core stays halted by the same event under
every host operation but a reset and an accepted load-program, which leave it running. That an over-long load-program
changes nothing is decision D28 (R263, log entry 20). -/
def Obligations.OnlyResetLeavesTheHaltedState : Prop :=
  ∀ (s : State) (e : FatalEvent), s.status = .fatal e →
    (∀ op : HostOp, op ≠ .reset → (∀ bytes, op ≠ .loadProgram bytes) → (hostOp op s).1.status = .fatal e) ∧
    (hostOp .reset s).1.status = .running ∧
    (∀ bytes, bytes.length ≤ 3584 → (hostOp (.loadProgram bytes) s).1.status = .running) ∧
    (∀ bytes, 3584 < bytes.length → (hostOp (.loadProgram bytes) s).1 = s)

/-! ## Control flow -/

/-- R124: `RET` pops the stack into `PC` and changes nothing else; with an empty stack nothing of the cycle applies and
`STATUS` becomes `Fatal(StackUnderflow)`. -/
def Obligations.ReturnPopsOrHalts : Prop :=
  (∀ (s : State) (t : Word) (rest : List Word), s.stack = t :: rest →
    exec .ret s = .next { s with stack := rest, pc := t }) ∧
  (∀ s : State, s.status = .running → decodeWord (fetchWord s) = .ok .ret → s.stack = [] →
    step s = .next { s with status := .fatal .stackUnderflow })

/-- R126: `CALL` pushes the advanced `PC`, sets `PC` to the literal and changes nothing else; with `STACK_DEPTH` entries on
the stack nothing of the cycle applies and `STATUS` becomes `Fatal(StackOverflow)` (the event is the spec's decision D9). -/
def Obligations.CallPushesOrHalts : Prop :=
  (∀ (s : State) (nnn : Addr12), (∀ d, s.cfg.stackDepth = some d → s.stack.length < d) →
    ∃ t, exec (.call nnn) s = .next t ∧ t = { s with stack := s.pc :: s.stack, pc := t.pc } ∧
      t.pc.toNat = nnn.toNat) ∧
  (∀ (s : State) (nnn : Addr12), s.status = .running → decodeWord (fetchWord s) = .ok (.call nnn) →
    s.cfg.stackDepth = some s.stack.length → step s = .next { s with status := .fatal .stackOverflow })

/-- R125, R180: `JP addr` sets `PC`, `LD I, addr` sets `I`, to the 12-bit literal, and nothing else. -/
def Obligations.LiteralsGoToPcAndIndex : Prop :=
  ∀ (s : State) (nnn : Addr12),
    (∃ t, exec (.jp nnn) s = .next t ∧ t = { s with pc := t.pc } ∧ t.pc.toNat = nnn.toNat) ∧
    (∃ t, exec (.ldI nnn) s = .next t ∧ t = { s with index := t.index } ∧ t.index.toNat = nnn.toNat)

/-- R131 (`V0` in both modes is decision D20, log entry 14): `JP V0, addr` sets `PC` to the literal plus `V0`, not reduced
to 12 bits, and nothing else. -/
def Obligations.JumpWithOffsetAddsV0 : Prop :=
  ∀ (s : State) (nnn : Addr12),
    ∃ t, exec (.jpV0 nnn) s = .next t ∧ t = { s with pc := t.pc } ∧ t.pc.toNat = nnn.toNat + (getV s V0).toNat

/-- R127 to R130: each of the four register skips adds 2 to `PC`, mod 65536, exactly when its condition holds, and changes
nothing else. -/
def Obligations.RegisterSkipsMovePcByTwo : Prop :=
  ∀ (s : State) (x y : Reg) (kk : Byte),
    (∃ t, exec (.seByte x kk) s = .next t ∧ t = { s with pc := t.pc } ∧
      t.pc.toNat = if getV s x = kk then (s.pc.toNat + 2) % 65536 else s.pc.toNat) ∧
    (∃ t, exec (.sneByte x kk) s = .next t ∧ t = { s with pc := t.pc } ∧
      t.pc.toNat = if getV s x = kk then s.pc.toNat else (s.pc.toNat + 2) % 65536) ∧
    (∃ t, exec (.seReg x y) s = .next t ∧ t = { s with pc := t.pc } ∧
      t.pc.toNat = if getV s x = getV s y then (s.pc.toNat + 2) % 65536 else s.pc.toNat) ∧
    (∃ t, exec (.sneReg x y) s = .next t ∧ t = { s with pc := t.pc } ∧
      t.pc.toNat = if getV s x = getV s y then s.pc.toNat else (s.pc.toNat + 2) % 65536)

/-- R223, R224 (the index mod 16 is R226's decision D12, log entry 11): the key skips add 2 to `PC` exactly when key
`V[x] mod 16` is held, or is not held, and change nothing else. -/
def Obligations.KeySkipsConsultTheLatch : Prop :=
  ∀ (s : State) (x : Reg) (k : Fin 16), k.val = (getV s x).toNat % 16 →
    (∃ t, exec (.skp x) s = .next t ∧ t = { s with pc := t.pc } ∧
      t.pc.toNat = if s.key[k] = true then (s.pc.toNat + 2) % 65536 else s.pc.toNat) ∧
    (∃ t, exec (.sknp x) s = .next t ∧ t = { s with pc := t.pc } ∧
      t.pc.toNat = if s.key[k] = true then s.pc.toNat else (s.pc.toNat + 2) % 65536)

/-- R225 (level-sensitive by decision D24, log entry 17): `LD Vx, K` stores the least held key in `V[x]` and changes
nothing else; with no key held the whole cycle is only a timer step, `PC` staying at the instruction. -/
def Obligations.WaitForKeyTakesTheLeastKeyOrRepeats : Prop :=
  (∀ (s : State) (x : Reg) (k : Fin 16), s.key[k] = true → (∀ j : Fin 16, j < k → s.key[j] = false) →
    ∃ t, exec (.ldVxK x) s = .next t ∧ t = { s with v := t.v } ∧ (getV t x).toNat = k.val ∧
      ∀ r : Reg, r ≠ x → getV t r = getV s r) ∧
  (∀ (s : State) (x : Reg), s.status = .running → decodeWord (fetchWord s) = .ok (.ldVxK x) →
    (∀ j : Fin 16, s.key[j] = false) → step s = .next (timerStep s))

/-! ## Loads, arithmetic, logic, shifts, random -/

/-- R150, R151, R152, R220: each writes only `V[x]` (the literal; the sum mod 256; `V[y]`; `DT`), `VF` included only where
`x` is 15, and no flag. -/
def Obligations.PlainLoadsWriteOneRegister : Prop :=
  ∀ (s : State) (x y r : Reg) (kk : Byte),
    (∃ t, exec (.ldByte x kk) s = .next t ∧ t = { s with v := t.v } ∧ getV t r = if r = x then kk else getV s r) ∧
    (∃ t, exec (.addByte x kk) s = .next t ∧ t = { s with v := t.v } ∧
      (getV t r).toNat = if r = x then ((getV s x).toNat + kk.toNat) % 256 else (getV s r).toNat) ∧
    (∃ t, exec (.ldReg x y) s = .next t ∧ t = { s with v := t.v } ∧ getV t r = if r = x then getV s y else getV s r) ∧
    (∃ t, exec (.ldVxDt x) s = .next t ∧ t = { s with v := t.v } ∧ getV t r = if r = x then s.dt else getV s r)

/-- R153, R154, R155: the bitwise operations write `V[x]` and set `VF` to 0 whatever it held; with `x = 15` the result is
lost (R163, decision D11, log entry 10). -/
def Obligations.LogicWritesResultAndClearsVF : Prop :=
  ∀ (s : State) (x y r : Reg),
    (∃ t, exec (.orReg x y) s = .next t ∧ t = { s with v := t.v } ∧
      getV t r = if r = VF then 0 else if r = x then getV s x ||| getV s y else getV s r) ∧
    (∃ t, exec (.andReg x y) s = .next t ∧ t = { s with v := t.v } ∧
      getV t r = if r = VF then 0 else if r = x then getV s x &&& getV s y else getV s r) ∧
    (∃ t, exec (.xorReg x y) s = .next t ∧ t = { s with v := t.v } ∧
      getV t r = if r = VF then 0 else if r = x then getV s x ^^^ getV s y else getV s r)

/-- R156: the sum mod 256 in `V[x]`, the carry in `VF`; with `x = 15` the sum is lost and `VF` is the carry (R163, decision
D11, log entry 10). -/
def Obligations.AddRegistersGivesSumAndCarry : Prop :=
  ∀ (s : State) (x y : Reg),
    ∃ t, exec (.addReg x y) s = .next t ∧ t = { s with v := t.v } ∧
      getV t VF = (if (getV s x).toNat + (getV s y).toNat > 255 then 1 else 0) ∧
      (x ≠ VF → (getV t x).toNat = ((getV s x).toNat + (getV s y).toNat) % 256) ∧
      ∀ r : Reg, r ≠ x → r ≠ VF → getV t r = getV s r

/-- R157: the wrapped difference in `V[x]`, "no borrow" in `VF`; with `x = 15` the difference is lost (R163, decision D11,
log entry 10). -/
def Obligations.SubtractGivesDifferenceAndNoBorrow : Prop :=
  ∀ (s : State) (x y : Reg),
    ∃ t, exec (.subReg x y) s = .next t ∧ t = { s with v := t.v } ∧
      getV t VF = (if (getV s x).toNat ≥ (getV s y).toNat then 1 else 0) ∧
      (x ≠ VF → ((getV t x).toNat : Int) = ((getV s x).toNat - (getV s y).toNat : Int) % 256) ∧
      ∀ r : Reg, r ≠ x → r ≠ VF → getV t r = getV s r

/-- R158 (strict "greater" is decision D19, log entry 13): the reversed difference, and `VF` is 1 exactly when
`V[y] > V[x]`. -/
def Obligations.ReversedSubtractFlagIsStrict : Prop :=
  ∀ (s : State) (x y : Reg),
    ∃ t, exec (.subnReg x y) s = .next t ∧ t = { s with v := t.v } ∧
      getV t VF = (if (getV s y).toNat > (getV s x).toNat then 1 else 0) ∧
      (x ≠ VF → ((getV t x).toNat : Int) = ((getV s y).toNat - (getV s x).toNat : Int) % 256) ∧
      ∀ r : Reg, r ≠ x → r ≠ VF → getV t r = getV s r

/-- R159, R160 (decision D20, log entry 14): the value shifted is `V[y]` in legacy mode and `V[x]` in extended mode; `V[x]`
gets it halved, or doubled mod 256, and `VF` the bit shifted out; no other register changes. -/
def Obligations.ShiftsFollowTheMode : Prop :=
  ∀ (s : State) (x y : Reg) (b : Byte), b = (if s.mode = .legacy then getV s y else getV s x) →
    (∃ t, exec (.shr x y) s = .next t ∧ t = { s with v := t.v } ∧ (getV t VF).toNat = b.toNat % 2 ∧
      (x ≠ VF → (getV t x).toNat = b.toNat / 2) ∧ ∀ r : Reg, r ≠ x → r ≠ VF → getV t r = getV s r) ∧
    (∃ t, exec (.shl x y) s = .next t ∧ t = { s with v := t.v } ∧ (getV t VF).toNat = b.toNat / 128 ∧
      (x ≠ VF → (getV t x).toNat = 2 * b.toNat % 256) ∧ ∀ r : Reg, r ≠ x → r ≠ VF → getV t r = getV s r)

/-- 95_test_vectors.md S10, R159: for `x` other than 15 and two registers of different values, `SHR` leaves different
registers in the two modes. -/
def Obligations.ShiftRightForksOnMode : Prop :=
  ∀ (s t u : State) (x y : Reg), x ≠ VF → getV s x ≠ getV s y →
    exec (.shr x y) { s with mode := .legacy } = .next t → exec (.shr x y) { s with mode := .extended } = .next u →
    t.v ≠ u.v

/-- R161 (decision D14): `RND` puts a fresh draw masked by the literal in `V[x]` and changes no other register; bits that
are 0 in the literal are 0. The draw is a free value, and the draw count is the model's own (log entry 1). -/
def Obligations.RandomIsMasked : Prop :=
  ∀ (s : State) (x : Reg) (kk : Byte),
    ∃ t, exec (.rnd x kk) s = .next t ∧ t = { s with v := t.v, draws := s.draws + 1 } ∧
      getV t x = Config.drawByte s.draws &&& kk ∧ getV t x &&& ~~~kk = 0 ∧
      ∀ r : Reg, r ≠ x → getV t r = getV s r

/-! ## Index register and memory -/

/-- R181 (16-bit arithmetic is decision D8, log entry 15), R182 (no masking is decision D26, log entry 16): what
`ADD I, Vx` and `LD F, Vx` put in `I`; they change nothing else, `VF` included. -/
def Obligations.IndexArithmetic : Prop :=
  ∀ (s : State) (x : Reg),
    (∃ t, exec (.addIVx x) s = .next t ∧ t = { s with index := t.index } ∧
      t.index.toNat = (s.index.toNat + (getV s x).toNat) % 65536) ∧
    (∃ t, exec (.ldFVx x) s = .next t ∧ t = { s with index := t.index } ∧ t.index.toNat = (getV s x).toNat * 5)

/-- R183: the three decimal digits of `V[x]` at `I`, `I + 1`, `I + 2`, each address mod 4096; `I`, every other byte of
memory and all the rest unchanged. -/
def Obligations.BcdStoresThreeDigits : Prop :=
  ∀ (s : State) (x : Reg),
    ∃ t, exec (.ldBVx x) s = .next t ∧ t = { s with mem := t.mem } ∧
      (memRead t.mem s.index.toNat).toNat = (getV s x).toNat / 100 ∧
      (memRead t.mem (s.index.toNat + 1)).toNat = (getV s x).toNat / 10 % 10 ∧
      (memRead t.mem (s.index.toNat + 2)).toNat = (getV s x).toNat % 10 ∧
      ∀ a, (∀ k < 3, a % 4096 ≠ (s.index.toNat + k) % 4096) → memRead t.mem a = memRead s.mem a

/-- R184 (the advance in both modes is decision D20, log entry 14): `V0` to `Vx` at `I` upward, each address mod 4096,
`I` advanced by `x + 1` mod 65536; every other byte of memory and all the rest unchanged. -/
def Obligations.BlockStoreWritesAndAdvances : Prop :=
  ∀ (s : State) (x : Reg),
    ∃ t, exec (.storeRegs x) s = .next t ∧ t = { s with mem := t.mem, index := t.index } ∧
      t.index.toNat = (s.index.toNat + x.val + 1) % 65536 ∧
      (∀ k : Reg, k ≤ x → memRead t.mem (s.index.toNat + k.val) = getV s k) ∧
      ∀ a, (∀ k ≤ x.val, a % 4096 ≠ (s.index.toNat + k) % 4096) → memRead t.mem a = memRead s.mem a

/-- R185 (the advance in both modes is decision D20, log entry 14): `V0` to `Vx` from `I` upward, `I` advanced by `x + 1` mod 65536; the registers above `x`, memory and all the rest
unchanged. -/
def Obligations.BlockLoadReadsAndAdvances : Prop :=
  ∀ (s : State) (x : Reg),
    ∃ t, exec (.loadRegs x) s = .next t ∧ t = { s with v := t.v, index := t.index } ∧
      t.index.toNat = (s.index.toNat + x.val + 1) % 65536 ∧
      ∀ k : Reg, getV t k = if k ≤ x then memRead s.mem (s.index.toNat + k.val) else getV s k

/-- R184, R185: a block load from where a block store began gives back `V0` to `Vx`, whatever the registers held in
between. -/
def Obligations.BlockLoadUndoesBlockStore : Prop :=
  ∀ (s : State) (x : Reg) (w : Vector Byte 16),
    ∃ t u, exec (.storeRegs x) s = .next t ∧ exec (.loadRegs x) { t with index := s.index, v := w } = .next u ∧
      ∀ k : Reg, k ≤ x → getV u k = getV s k

/-- R73, the spec's own derivation, on decision D21 (log entry 23): bytes stored over the next instruction are the word the
next fetch reads. -/
def Obligations.StoresAreSeenByTheNextFetch : Prop :=
  ∀ (s : State) (x k l : Reg), l.val = k.val + 1 → l ≤ x →
    s.pc.toNat % 4096 = (s.index.toNat + k.val) % 4096 →
    ∃ t, exec (.storeRegs x) s = .next t ∧ fetchWord t = getV s k ++ getV s l

/-! ## Display -/

/-- R201, R203: `CLS` turns every cell off, sets `DIRTY` and changes nothing else, `VF` included. -/
def Obligations.ClearScreenTurnsEveryCellOff : Prop :=
  ∀ s : State, ∃ t, exec .cls s = .next t ∧ t = { s with fb := t.fb, dirty := true } ∧
    ∀ y x, y < 32 → x < 64 → cell t.fb y x = false

/-- R202: drawing a sprite exclusive-ors it into the cells at its start, which wraps mod 64 and mod 32, clipped at the right
and bottom edges; the result is 1 exactly when some cell went from 1 to 0. -/
def Obligations.SpriteIsXoredAndClipped : Prop :=
  ∀ (f : Frame) (xs ys : Nat) (rows : List Byte),
    (∀ py px, py < 32 → px < 64 →
      cell (drawSprite f xs ys rows).1 py px = (cell f py px ^^
        (decide (xs % 64 ≤ px ∧ px < xs % 64 + 8 ∧ ys % 32 ≤ py ∧ py < ys % 32 + rows.length) &&
          (rows.getD (py - ys % 32) 0).getLsbD (7 - (px - xs % 64))))) ∧
    ((drawSprite f xs ys rows).2 = true ↔
      ∃ py px, py < 32 ∧ px < 64 ∧ cell f py px = true ∧ cell (drawSprite f xs ys rows).1 py px = false)

/-- R204 (the sprite's place and `DIRTY` without a change are decisions D32 and D29, log entry 18; the coordinates are read
before `VF` is written by D11, log entry 10): `DRW` exclusive-ors the `n` bytes at `I` into the framebuffer, sets `VF` to
the collision result and `DIRTY` to 1, and changes no other register, no memory and not `I`. -/
def Obligations.DrawWritesCellsFlagAndDirty : Prop :=
  ∀ (s : State) (x y : Reg) (n : Nibble),
    ∃ t, exec (.drw x y n) s = .next t ∧ t = { s with v := t.v, fb := t.fb, dirty := true } ∧
      (∀ r : Reg, r ≠ VF → getV t r = getV s r) ∧
      (∀ py px, py < 32 → px < 64 →
        cell t.fb py px = (cell s.fb py px ^^
          (decide ((getV s x).toNat % 64 ≤ px ∧ px < (getV s x).toNat % 64 + 8 ∧
              (getV s y).toNat % 32 ≤ py ∧ py < (getV s y).toNat % 32 + n.toNat) &&
            (memRead s.mem (s.index.toNat + (py - (getV s y).toNat % 32))).getLsbD
              (7 - (px - (getV s x).toNat % 64))))) ∧
      ((∃ py px, py < 32 ∧ px < 64 ∧ cell s.fb py px = true ∧ cell t.fb py px = false) → getV t VF = 1) ∧
      ((∀ py px, py < 32 → px < 64 → cell s.fb py px = true → cell t.fb py px = true) → getV t VF = 0)

/-- R206 (a), (b), C4 (the sprite's place is decision D32, log entry 18; with `x` or `y` = 15 the coordinate is read before
`VF` is written by D11, log entry 10): with the registers as they were, the same `DRW` again restores the framebuffer, and its collision
result is 1 exactly when the first turned some cell on. -/
def Obligations.DrawingTwiceRestoresTheFrame : Prop :=
  ∀ (s : State) (x y : Reg) (n : Nibble),
    ∃ t u, exec (.drw x y n) s = .next t ∧ exec (.drw x y n) { t with v := s.v } = .next u ∧ u.fb = s.fb ∧
      (getV u VF = 1 ↔ ∃ py px, py < 32 ∧ px < 64 ∧ cell s.fb py px = false ∧ cell t.fb py px = true)

/-! ## Timers -/

/-- R221, R222 (the tick's test is decision D13, log entry 9): the timer moves write only `DT`, or only `ST`, with `V[x]`;
and in the same cycle the timer step runs after the write, so that a tick leaves the written timer one lower, floored at
zero. -/
def Obligations.TimerWritesPrecedeTheTick : Prop :=
  (∀ (s : State) (x : Reg),
    (∃ t, exec (.ldDtVx x) s = .next t ∧ t = { s with dt := getV s x }) ∧
    (∃ t, exec (.ldStVx x) s = .next t ∧ t = { s with st := getV s x })) ∧
  (∀ (s : State) (x : Reg), s.status = .running → decodeWord (fetchWord s) = .ok (.ldDtVx x) →
    ∃ t, step s = .next t ∧
      t.dt.toNat = if 1 ≤ s.acc + 60 / s.cps then (getV s x).toNat - 1 else (getV s x).toNat) ∧
  (∀ (s : State) (x : Reg), s.status = .running → decodeWord (fetchWord s) = .ok (.ldStVx x) →
    ∃ t, step s = .next t ∧
      t.st.toNat = if 1 ≤ s.acc + 60 / s.cps then (getV s x).toNat - 1 else (getV s x).toNat)

/-- R255 (exact rationals and one test per cycle are decision D13, log entry 9): the timer step, with the floor at zero. -/
def Obligations.TimerStepTicksOnce : Prop :=
  ∀ s : State,
    (1 ≤ s.acc + 60 / s.cps →
      timerStep s = { s with acc := s.acc + 60 / s.cps - 1, dt := (timerStep s).dt, st := (timerStep s).st } ∧
      (timerStep s).dt.toNat = s.dt.toNat - 1 ∧ (timerStep s).st.toNat = s.st.toNat - 1) ∧
    (s.acc + 60 / s.cps < 1 → timerStep s = { s with acc := s.acc + 60 / s.cps })

/-- R257 (b), (c) (on decision D13, log entry 9): with a rate of at least 60, `m` timer steps from `ACC = A0` make `floor(A0 + 60 m / CPS)` ticks. -/
def Obligations.TicksAreTheFloorOfTheRate : Prop :=
  ∀ (s : State) (m : Nat), s.AccBounded →
    (timerStep^[m] s).dt.toNat = s.dt.toNat - ⌊s.acc + m * (60 / s.cps)⌋₊ ∧
    (timerStep^[m] s).st.toNat = s.st.toNat - ⌊s.acc + m * (60 / s.cps)⌋₊ ∧
    (timerStep^[m] s).acc = Int.fract (s.acc + m * (60 / s.cps))

/-- R258 (on decision D13, log entry 9): with a rate below 60 every cycle ticks, which takes one off `DT` and one off `ST`,
and `ACC` grows by `60 / CPS - 1`, without bound. -/
def Obligations.SlowRatesTickEveryCycle : Prop :=
  ∀ (s : State) (m : Nat), 0 < s.cps → s.cps < 60 → 0 ≤ s.acc →
    (timerStep^[m] s).acc = s.acc + m * (60 / s.cps - 1) ∧ (timerStep^[m] s).dt.toNat = s.dt.toNat - m ∧
    (timerStep^[m] s).st.toNat = s.st.toNat - m

/-! ## Invariants -/

/-- The legal states hold at State.reset, and at every construction the core accepts (R40, R285). -/
def Obligations.ConstructionIsLegal : Prop :=
  State.reset.Inv ∧
  ∀ (cfg : Params) (strap : Mode) (rate : Option Rat) (s : State), hostConstruct cfg strap rate = .ok s → s.Inv

/-- R25, R30, R33 (decisions D9 and D13; log entries 3 and 9) and the canonical form of memory, the model's own: from every legal state a cycle gives a legal state. -/
def Obligations.StepKeepsTheStateLegal : Prop :=
  ∀ s t : State, s.Inv → step s = .next t → t.Inv

/-- The same over every host operation and every interleaving of them (R285, R296). -/
def Obligations.HostOperationsKeepTheStateLegal : Prop :=
  (∀ (op : HostOp) (s : State), s.Inv → (hostOp op s).1.Inv) ∧ (∀ s : State, Reachable s → s.Inv)

/-- R257 (a) (on decision D13, log entry 9): with a rate of at least 60, a cycle keeps `ACC` in [0, 1). -/
def Obligations.StepKeepsTheAccumulatorBounded : Prop :=
  ∀ s t : State, s.AccBounded → step s = .next t → t.AccBounded

/-- R302 (decision D22): from a parked state a cycle changes only `ACC`, `DT` and `ST`, and the state stays parked. -/
def Obligations.ParkedStaysParked : Prop :=
  ∀ s : State, s.Parked →
    ∃ t, step s = .next t ∧ t = { s with acc := t.acc, dt := t.dt, st := t.st } ∧ t.Parked

/-! ## Which instructions write what -/

/-- R27, R28, R205: only `CLS` and `DRW` write the framebuffer and `DIRTY`, and no cycle clears `DIRTY`. -/
def Obligations.OnlyClsAndDrwTouchTheDisplay : Prop :=
  (∀ (i : Instr) (s t : State), exec i s = .next t → t.fb ≠ s.fb ∨ t.dirty ≠ s.dirty →
    (i = .cls ∨ ∃ x y n, i = .drw x y n) ∧ t.dirty = true) ∧
  (∀ s t : State, step s = .next t → s.dirty = true → t.dirty = true)

/-- R23, R26, R36: memory is written only by `LD B` and `LD [I]`, and `I` only by the five instructions of R23. -/
def Obligations.WhoWritesMemoryAndIndex : Prop :=
  ∀ (i : Instr) (s t : State), exec i s = .next t →
    (t.mem ≠ s.mem → (∃ x, i = .ldBVx x) ∨ ∃ x, i = .storeRegs x) ∧
    (t.index ≠ s.index → (∃ nnn, i = .ldI nnn) ∨ (∃ x, i = .addIVx x) ∨ (∃ x, i = .ldFVx x) ∨
      (∃ x, i = .storeRegs x) ∨ ∃ x, i = .loadRegs x)

/-- R25 (that no other instruction writes the stack is decision D33, log entry 24), R34, R132: the stack is written only by
`CALL` and `RET`, and `STATUS` changes under no other instruction; `PC`
moves beyond the fetch's advance only under the control-flow instructions, the skips and `LD Vx, K` (R24). -/
def Obligations.WhoWritesStackStatusAndPc : Prop :=
  ∀ (i : Instr) (s t : State), exec i s = .next t →
    (t.stack ≠ s.stack ∨ t.status ≠ s.status → i = .ret ∨ ∃ nnn, i = .call nnn) ∧
    (t.pc ≠ s.pc → i = .ret ∨ (∃ nnn, i = .jp nnn) ∨ (∃ nnn, i = .call nnn) ∨ (∃ nnn, i = .jpV0 nnn) ∨
      (∃ x kk, i = .seByte x kk) ∨ (∃ x kk, i = .sneByte x kk) ∨ (∃ x y, i = .seReg x y) ∨ (∃ x y, i = .sneReg x y) ∨
      (∃ x, i = .skp x) ∨ (∃ x, i = .sknp x) ∨ ∃ x, i = .ldVxK x)

/-- R22, R36: `VF` is written only by the instructions of R22's table and by one whose destination it is. -/
def Obligations.WhoWritesVF : Prop :=
  ∀ (i : Instr) (s t : State), exec i s = .next t → getV t VF ≠ getV s VF →
    (∃ x y, i = .orReg x y ∨ i = .andReg x y ∨ i = .xorReg x y ∨ i = .addReg x y ∨ i = .subReg x y ∨ i = .subnReg x y ∨
      i = .shr x y ∨ i = .shl x y ∨ i = .ldReg VF y ∨ ∃ n, i = .drw x y n) ∨
    (∃ kk, i = .ldByte VF kk ∨ i = .addByte VF kk ∨ i = .rnd VF kk) ∨
    i = .ldVxDt VF ∨ i = .ldVxK VF ∨ i = .loadRegs VF

/-- R29, R30, R31, R32, R33, R257 (f): no instruction writes `ACC`, `KEY`, `MODE`, `CPS`, the strap or a parameter; `DT` and
`ST` only the two timer moves; and a whole cycle leaves `KEY`, `MODE`, `CPS`, the strap and the parameters as they were. -/
def Obligations.HostInputsAreNotWrittenByTheCore : Prop :=
  (∀ (i : Instr) (s t : State), exec i s = .next t →
    t.acc = s.acc ∧ t.key = s.key ∧ t.mode = s.mode ∧ t.cps = s.cps ∧ t.modeStrap = s.modeStrap ∧ t.cfg = s.cfg ∧
    (t.dt ≠ s.dt → ∃ x, i = .ldDtVx x) ∧ (t.st ≠ s.st → ∃ x, i = .ldStVx x)) ∧
  (∀ s t : State, step s = .next t →
    t.key = s.key ∧ t.mode = s.mode ∧ t.cps = s.cps ∧ t.modeStrap = s.modeStrap ∧ t.cfg = s.cfg)

/-! ## What does not influence what -/

/-- R32, C2 (decision D20, log entry 14): `MODE` alters no instruction but the two shifts. -/
def Obligations.ModeAltersOnlyTheShifts : Prop :=
  ∀ (i : Instr) (s t : State) (m : Mode), (∀ x y, i ≠ .shr x y) → (∀ x y, i ≠ .shl x y) → exec i s = .next t →
    exec i { s with mode := m } = .next { t with mode := m }

/-- R33: `CPS` alters nothing of a cycle but `ACC`, `DT` and `ST`. -/
def Obligations.CycleRateAltersOnlyTheTimerUnit : Prop :=
  ∀ (s t : State) (r : Rat), step s = .next t →
    ∃ u, step { s with cps := r } = .next u ∧ u = { t with cps := r, acc := u.acc, dt := u.dt, st := u.st }

/-- R28: `DIRTY` does not influence execution. -/
def Obligations.DirtyDoesNotInfluenceExecution : Prop :=
  ∀ (s t : State) (d : Bool), step s = .next t →
    ∃ u, step { s with dirty := d } = .next u ∧ u = { t with dirty := u.dirty }

/-! ## Host operations -/

/-- R280 (all values but `PC` and the font are the spec's decisions D3 to D6, D10, D25, D31; log entry 7): what reset
leaves. -/
def Obligations.ResetLeavesTheDecidedState : Prop :=
  ∀ s : State, ∃ t, hostOp .reset s = (t, .done) ∧ t.pc = 0x0200 ∧
    (∀ (a : Nat) (h : a < 80), memRead t.mem a = s.cfg.font[a]) ∧
    (∀ a, 80 ≤ a → a < 4096 → memRead t.mem a = 0) ∧
    (∀ r : Reg, getV t r = 0) ∧ t.index = 0 ∧ t.stack = [] ∧ (∀ y x, y < 32 → x < 64 → cell t.fb y x = false) ∧
    t.dirty = true ∧ t.dt = 0 ∧ t.st = 0 ∧ t.acc = 0 ∧ (∀ k : Fin 16, t.key[k] = false) ∧ t.mode = s.modeStrap ∧
    t.status = .running ∧ t.cps = s.cps

/-- R283: load-program resets and copies the bytes from 0x200 upward; over 3584 bytes it is refused and nothing changes. -/
def Obligations.LoadProgramCopiesOrRefuses : Prop :=
  ∀ (s : State) (bytes : List Byte),
    (bytes.length ≤ 3584 →
      ∃ t, hostOp (.loadProgram bytes) s = (t, .done) ∧ t = { hostReset s with mem := t.mem } ∧
        (∀ (k : Nat) (h : k < bytes.length), memRead t.mem (0x200 + k) = bytes[k]) ∧
        ∀ a, a < 4096 → (a < 0x200 ∨ 0x200 + bytes.length ≤ a) → memRead t.mem a = memRead (hostReset s).mem a) ∧
    (3584 < bytes.length → hostOp (.loadProgram bytes) s = (s, .programTooLong bytes.length))

/-- R264 (decision D27; that the report is always made is the model's choice, log entry 19): set-key writes one latch entry,
and nothing for a code of 16 or above. -/
def Obligations.SetKeyWritesOneLatchEntry : Prop :=
  ∀ (s : State) (code : Nat) (pressed : Bool),
    (code < 16 → ∃ t, hostOp (.setKey code pressed) s = (t, .done) ∧ t = { s with key := t.key } ∧
      ∀ k : Fin 16, t.key[k] = if k.val = code then pressed else s.key[k]) ∧
    (16 ≤ code → hostOp (.setKey code pressed) s = (s, .keyCodeOutOfRange code))

/-- R266 to R269: the reads change nothing and report the cell, `DIRTY`, `ST`, `DT` (outside the buffer R266
only says refused; that the reply is `noSuchCell` is the model's choice, log entry 20);
clear-dirty clears `DIRTY` only; and besides a reset, a load-program and a cycle no host operation writes a cell or a timer,
nor any but clear-dirty `DIRTY`. -/
def Obligations.HostReadsAndClearDirty : Prop :=
  (∀ (s : State) (x y : Nat),
    (x < 64 → y < 32 → hostOp (.getDisplayCell x y) s = (s, .bit (cell s.fb y x))) ∧
    (64 ≤ x ∨ 32 ≤ y → hostOp (.getDisplayCell x y) s = (s, .noSuchCell)) ∧
    hostOp .isDisplayDirty s = (s, .bit s.dirty) ∧ hostOp .getSoundTimer s = (s, .timer s.st) ∧
    hostOp .getDelayTimer s = (s, .timer s.dt) ∧ hostOp .clearDirty s = ({ s with dirty := false }, .done)) ∧
  ∀ (s : State) (op : HostOp), op ≠ .reset → (∀ bytes, op ≠ .loadProgram bytes) → op ≠ .runOneCycle →
    (hostOp op s).1.fb = s.fb ∧ (hostOp op s).1.dt = s.dt ∧ (hostOp op s).1.st = s.st ∧
    (op ≠ .clearDirty → (hostOp op s).1.dirty = s.dirty)

/-- R270 (decision D31), R271 (decision D25): set-mode changes only the strap, which the next reset latches;
set-cycle-rate changes only `CPS`, and is refused unless the rate is a positive rational. -/
def Obligations.ModeStrapAndCycleRate : Prop :=
  (∀ (s : State) (m : Mode), hostOp (.setMode m) s = ({ s with modeStrap := m }, .done) ∧
    (hostOp .reset (hostOp (.setMode m) s).1).1.mode = m) ∧
  (∀ (s : State) (r : Rat), 0 < r → hostOp (.setCycleRate (some r)) s = ({ s with cps := r }, .done)) ∧
  (∀ (s : State) (rate : Option Rat), (∀ r, rate = some r → r ≤ 0) →
    hostOp (.setCycleRate rate) s = (s, .badCycleRate rate))
end

