-- ==== Sys2Proof/Laws/Memory.lean ====
section
/-! SUPPORT. What the memory operations do: a read after a write, blocks of bytes, and the canonical form kept by every
operation. -/

namespace Sys2Proof.Machine

/-! ## One byte at a reduced address -/

theorem lookupByte_consCell (a : Nat) (b : Byte) (rest : Memory) (c : Nat)
    (h : c = a → lookupByte rest c = unlistedByte c) :
    lookupByte (consCell a b rest) c = if c = a then b else lookupByte rest c := by
  unfold consCell
  by_cases hb : b = unlistedByte a
  · by_cases hc : c = a <;> simp_all
  · by_cases hc : c = a
    · simp_all [lookupByte]
    · simp [hb, hc, lookupByte, Ne.symm hc]

theorem lookupByte_eraseAddr (m : Memory) (a c : Nat) :
    lookupByte (eraseAddr m a) c = if c = a then unlistedByte c else lookupByte m c := by
  induction m with
  | nil => simp [eraseAddr, lookupByte]
  | cons e rest ih =>
    obtain ⟨k, d⟩ := e
    by_cases hk : k = a
    · by_cases hc : c = a
      · simp_all [eraseAddr]
      · have : k ≠ c := by omega
        simp_all [eraseAddr, lookupByte]
    · by_cases hkc : k = c
      · have : c ≠ a := by omega
        simp [eraseAddr, lookupByte, hkc, this]
      · simp [eraseAddr, lookupByte, hk, hkc, ih]

theorem lookupByte_insertCell (m : Memory) (a : Nat) (b : Byte) (c : Nat)
    (h : c = a → lookupByte m c = unlistedByte c) :
    lookupByte (insertCell m a b) c = if c = a then b else lookupByte m c := by
  induction m with
  | nil => exact lookupByte_consCell a b [] c h
  | cons e rest ih =>
    obtain ⟨k, d⟩ := e
    by_cases hk : k < a
    · by_cases hkc : k = c
      · have : c ≠ a := by omega
        subst hkc
        simp [insertCell, lookupByte, hk, this]
      · simp only [lookupByte, hkc, if_false] at h
        simp [insertCell, lookupByte, hk, hkc, ih h]
    · simpa [insertCell, hk] using lookupByte_consCell a b ((k, d) :: rest) c h

theorem lookupByte_putByte (m : Memory) (a : Nat) (b : Byte) (c : Nat) :
    lookupByte (putByte m a b) c = if c = a then b else lookupByte m c := by
  unfold putByte
  rw [lookupByte_insertCell]
  · by_cases hc : c = a <;> simp [hc, lookupByte_eraseAddr]
  · intro hc
    simp [hc, lookupByte_eraseAddr]

/-! ## `MemRead` and `MemWrite` (R62, R63) -/

/-- A read after a write: the byte written where the reduced addresses agree, the old byte elsewhere. -/
theorem memRead_memWrite (m : Memory) (a : Nat) (b : Byte) (c : Nat) :
    memRead (memWrite m a b) c = if c % 4096 = a % 4096 then b else memRead m c :=
  lookupByte_putByte m (a % 4096) b (c % 4096)

/-- Only the reduced address matters. -/
theorem memRead_congr (m : Memory) {a c : Nat} (h : a % 4096 = c % 4096) : memRead m a = memRead m c := by
  simp [memRead, memSize, h]

@[simp] theorem memRead_mod (m : Memory) (a : Nat) : memRead m (a % 4096) = memRead m a :=
  memRead_congr m (Nat.mod_mod a 4096)

@[simp] theorem memRead_nil (a : Nat) : memRead [] a = unlistedByte (a % 4096) := rfl

/-! ## Blocks -/

/-- A block write leaves every address alone that is none of its own. -/
theorem memRead_memWriteBytes_off (bytes : List Byte) (m : Memory) (a c : Nat)
    (h : ∀ k < bytes.length, c % 4096 ≠ (a + k) % 4096) : memRead (memWriteBytes m a bytes) c = memRead m c := by
  induction bytes generalizing m a with
  | nil => rfl
  | cons b rest ih =>
    rw [memWriteBytes, ih, memRead_memWrite, if_neg]
    · simpa using h 0 (by simp)
    · intro k hk
      have := h (k + 1) (by simpa using hk)
      rwa [← Nat.add_assoc, Nat.add_right_comm] at this

/-- A block write puts its `k`-th byte at its `k`-th address, if it does not go round the whole memory. -/
theorem memRead_memWriteBytes_at (bytes : List Byte) (m : Memory) (a c k : Nat) (hk : k < bytes.length)
    (hlen : bytes.length ≤ 4096) (hc : c % 4096 = (a + k) % 4096) :
    memRead (memWriteBytes m a bytes) c = bytes[k] := by
  induction bytes generalizing m a k with
  | nil => simp at hk
  | cons b rest ih =>
    simp only [List.length_cons] at hk hlen
    rw [memWriteBytes]
    cases k with
    | zero =>
      rw [memRead_memWriteBytes_off, memRead_memWrite, if_pos (by simpa using hc)]
      · rfl
      · intro j hj
        omega
    | succ k => exact ih _ _ k (by omega) (by omega) (by omega)

@[simp] theorem memReadBytes_length (m : Memory) (a n : Nat) : (memReadBytes m a n).length = n := by
  induction n generalizing a with
  | zero => rfl
  | succ n ih => simp [memReadBytes, ih]

@[simp] theorem memReadBytes_getElem (m : Memory) (a n k : Nat) (h : k < (memReadBytes m a n).length) :
    (memReadBytes m a n)[k] = memRead m (a + k) := by
  induction n generalizing a k with
  | zero => simp [memReadBytes] at h
  | succ n ih =>
    cases k with
    | zero => rfl
    | succ k => simpa [memReadBytes, Nat.add_assoc, Nat.add_comm 1 k] using ih (a + 1) k (by simpa [memReadBytes] using h)

/-! ## The canonical form -/

theorem memWfFrom_mono (m : Memory) {low low' : Nat} (hle : low' ≤ low) (h : memWfFrom low m = true) :
    memWfFrom low' m = true := by
  cases m with
  | nil => rfl
  | cons e rest =>
    simp only [memWfFrom, Bool.and_eq_true, decide_eq_true_eq] at h ⊢
    exact ⟨⟨⟨by omega, h.1.1.2⟩, h.1.2⟩, h.2⟩

theorem memWfFrom_consCell (m : Memory) (low a : Nat) (b : Byte) (hlow : low ≤ a) (ha : a < memSize)
    (h : memWfFrom (a + 1) m = true) : memWfFrom low (consCell a b m) = true := by
  unfold consCell
  split
  · exact memWfFrom_mono m (by omega) h
  · simp_all [memWfFrom]

theorem memWfFrom_eraseAddr (m : Memory) (low a : Nat) (h : memWfFrom low m = true) :
    memWfFrom low (eraseAddr m a) = true := by
  induction m generalizing low with
  | nil => rfl
  | cons e rest ih =>
    simp only [memWfFrom, Bool.and_eq_true, decide_eq_true_eq] at h
    unfold eraseAddr
    split
    · exact memWfFrom_mono _ (by omega) (ih _ h.2)
    · simpa [memWfFrom, h.1.1.1, h.1.1.2, h.1.2] using ih _ h.2

/-- In a memory in canonical form from `low` on, no entry stands for `a` after it was erased. -/
theorem insertCell_wf (m : Memory) (low a : Nat) (b : Byte) (hlow : low ≤ a) (ha : a < memSize)
    (h : memWfFrom low m = true) (hno : ∀ e ∈ m, e.1 ≠ a) : memWfFrom low (insertCell m a b) = true := by
  induction m generalizing low with
  | nil => exact memWfFrom_consCell [] low a b hlow ha rfl
  | cons e rest ih =>
    have hne : e.1 ≠ a := hno e (by simp)
    simp only [memWfFrom, Bool.and_eq_true, decide_eq_true_eq] at h
    unfold insertCell
    split
    · have := ih (e.1 + 1) (by omega) h.2 fun e' he' => hno e' (by simp [he'])
      simpa [memWfFrom, h.1.1.1, h.1.1.2, h.1.2] using this
    · refine memWfFrom_consCell _ low a b hlow ha ?_
      have : a + 1 ≤ e.1 := by omega
      simpa [memWfFrom, h.1.1.2, h.1.2, this] using h.2

theorem eraseAddr_none (m : Memory) (a : Nat) : ∀ e ∈ eraseAddr m a, e.1 ≠ a := by
  induction m with
  | nil => simp [eraseAddr]
  | cons e rest ih =>
    unfold eraseAddr
    split
    · exact ih
    · intro e' he'
      rcases List.mem_cons.mp he' with rfl | he'
      · assumption
      · exact ih e' he'

/-- `MemWrite` keeps the canonical form. -/
theorem memWrite_wf (m : Memory) (a : Nat) (b : Byte) (h : m.wf = true) : (memWrite m a b).wf = true :=
  insertCell_wf _ 0 _ b (Nat.zero_le _) (Nat.mod_lt _ (by decide)) (memWfFrom_eraseAddr m 0 _ h) (eraseAddr_none m _)

/-- A block write keeps the canonical form. -/
theorem memWriteBytes_wf (bytes : List Byte) (m : Memory) (a : Nat) (h : m.wf = true) :
    (memWriteBytes m a bytes).wf = true := by
  induction bytes generalizing m a with
  | nil => exact h
  | cons b rest ih => exact ih _ _ (memWrite_wf m a b h)

end Sys2Proof.Machine
end

