-- ==== Sys2Proof/Laws/State.lean ====
section
/-! SUPPORT. Each named update of the state, field by field: it sets its own field and leaves the other seventeen. -/

namespace Sys2Proof.Machine

variable (s : State)

/-! `setV` -/

@[simp] theorem setV_v (r : Reg) (b : Byte) : (setV s r b).v = s.v.set r b := rfl
@[simp] theorem setV_index (r : Reg) (b : Byte) : (setV s r b).index = s.index := rfl
@[simp] theorem setV_pc (r : Reg) (b : Byte) : (setV s r b).pc = s.pc := rfl
@[simp] theorem setV_stack (r : Reg) (b : Byte) : (setV s r b).stack = s.stack := rfl
@[simp] theorem setV_mem (r : Reg) (b : Byte) : (setV s r b).mem = s.mem := rfl
@[simp] theorem setV_fb (r : Reg) (b : Byte) : (setV s r b).fb = s.fb := rfl
@[simp] theorem setV_dirty (r : Reg) (b : Byte) : (setV s r b).dirty = s.dirty := rfl
@[simp] theorem setV_dt (r : Reg) (b : Byte) : (setV s r b).dt = s.dt := rfl
@[simp] theorem setV_st (r : Reg) (b : Byte) : (setV s r b).st = s.st := rfl
@[simp] theorem setV_acc (r : Reg) (b : Byte) : (setV s r b).acc = s.acc := rfl
@[simp] theorem setV_key (r : Reg) (b : Byte) : (setV s r b).key = s.key := rfl
@[simp] theorem setV_mode (r : Reg) (b : Byte) : (setV s r b).mode = s.mode := rfl
@[simp] theorem setV_cps (r : Reg) (b : Byte) : (setV s r b).cps = s.cps := rfl
@[simp] theorem setV_status (r : Reg) (b : Byte) : (setV s r b).status = s.status := rfl
@[simp] theorem setV_modeStrap (r : Reg) (b : Byte) : (setV s r b).modeStrap = s.modeStrap := rfl
@[simp] theorem setV_cfg (r : Reg) (b : Byte) : (setV s r b).cfg = s.cfg := rfl
@[simp] theorem setV_draws (r : Reg) (b : Byte) : (setV s r b).draws = s.draws := rfl
@[simp] theorem setV_diag (r : Reg) (b : Byte) : (setV s r b).diag = s.diag := rfl

/-! `setAllV` -/

@[simp] theorem setAllV_v (w : Vector Byte 16) : (setAllV s w).v = w := rfl
@[simp] theorem setAllV_index (w : Vector Byte 16) : (setAllV s w).index = s.index := rfl
@[simp] theorem setAllV_pc (w : Vector Byte 16) : (setAllV s w).pc = s.pc := rfl
@[simp] theorem setAllV_stack (w : Vector Byte 16) : (setAllV s w).stack = s.stack := rfl
@[simp] theorem setAllV_mem (w : Vector Byte 16) : (setAllV s w).mem = s.mem := rfl
@[simp] theorem setAllV_fb (w : Vector Byte 16) : (setAllV s w).fb = s.fb := rfl
@[simp] theorem setAllV_dirty (w : Vector Byte 16) : (setAllV s w).dirty = s.dirty := rfl
@[simp] theorem setAllV_dt (w : Vector Byte 16) : (setAllV s w).dt = s.dt := rfl
@[simp] theorem setAllV_st (w : Vector Byte 16) : (setAllV s w).st = s.st := rfl
@[simp] theorem setAllV_acc (w : Vector Byte 16) : (setAllV s w).acc = s.acc := rfl
@[simp] theorem setAllV_key (w : Vector Byte 16) : (setAllV s w).key = s.key := rfl
@[simp] theorem setAllV_mode (w : Vector Byte 16) : (setAllV s w).mode = s.mode := rfl
@[simp] theorem setAllV_cps (w : Vector Byte 16) : (setAllV s w).cps = s.cps := rfl
@[simp] theorem setAllV_status (w : Vector Byte 16) : (setAllV s w).status = s.status := rfl
@[simp] theorem setAllV_modeStrap (w : Vector Byte 16) : (setAllV s w).modeStrap = s.modeStrap := rfl
@[simp] theorem setAllV_cfg (w : Vector Byte 16) : (setAllV s w).cfg = s.cfg := rfl
@[simp] theorem setAllV_draws (w : Vector Byte 16) : (setAllV s w).draws = s.draws := rfl
@[simp] theorem setAllV_diag (w : Vector Byte 16) : (setAllV s w).diag = s.diag := rfl

/-! `setIndex` -/

@[simp] theorem setIndex_v (w : Word) : (setIndex s w).v = s.v := rfl
@[simp] theorem setIndex_index (w : Word) : (setIndex s w).index = w := rfl
@[simp] theorem setIndex_pc (w : Word) : (setIndex s w).pc = s.pc := rfl
@[simp] theorem setIndex_stack (w : Word) : (setIndex s w).stack = s.stack := rfl
@[simp] theorem setIndex_mem (w : Word) : (setIndex s w).mem = s.mem := rfl
@[simp] theorem setIndex_fb (w : Word) : (setIndex s w).fb = s.fb := rfl
@[simp] theorem setIndex_dirty (w : Word) : (setIndex s w).dirty = s.dirty := rfl
@[simp] theorem setIndex_dt (w : Word) : (setIndex s w).dt = s.dt := rfl
@[simp] theorem setIndex_st (w : Word) : (setIndex s w).st = s.st := rfl
@[simp] theorem setIndex_acc (w : Word) : (setIndex s w).acc = s.acc := rfl
@[simp] theorem setIndex_key (w : Word) : (setIndex s w).key = s.key := rfl
@[simp] theorem setIndex_mode (w : Word) : (setIndex s w).mode = s.mode := rfl
@[simp] theorem setIndex_cps (w : Word) : (setIndex s w).cps = s.cps := rfl
@[simp] theorem setIndex_status (w : Word) : (setIndex s w).status = s.status := rfl
@[simp] theorem setIndex_modeStrap (w : Word) : (setIndex s w).modeStrap = s.modeStrap := rfl
@[simp] theorem setIndex_cfg (w : Word) : (setIndex s w).cfg = s.cfg := rfl
@[simp] theorem setIndex_draws (w : Word) : (setIndex s w).draws = s.draws := rfl
@[simp] theorem setIndex_diag (w : Word) : (setIndex s w).diag = s.diag := rfl

/-! `setPc` -/

@[simp] theorem setPc_v (w : Word) : (setPc s w).v = s.v := rfl
@[simp] theorem setPc_index (w : Word) : (setPc s w).index = s.index := rfl
@[simp] theorem setPc_pc (w : Word) : (setPc s w).pc = w := rfl
@[simp] theorem setPc_stack (w : Word) : (setPc s w).stack = s.stack := rfl
@[simp] theorem setPc_mem (w : Word) : (setPc s w).mem = s.mem := rfl
@[simp] theorem setPc_fb (w : Word) : (setPc s w).fb = s.fb := rfl
@[simp] theorem setPc_dirty (w : Word) : (setPc s w).dirty = s.dirty := rfl
@[simp] theorem setPc_dt (w : Word) : (setPc s w).dt = s.dt := rfl
@[simp] theorem setPc_st (w : Word) : (setPc s w).st = s.st := rfl
@[simp] theorem setPc_acc (w : Word) : (setPc s w).acc = s.acc := rfl
@[simp] theorem setPc_key (w : Word) : (setPc s w).key = s.key := rfl
@[simp] theorem setPc_mode (w : Word) : (setPc s w).mode = s.mode := rfl
@[simp] theorem setPc_cps (w : Word) : (setPc s w).cps = s.cps := rfl
@[simp] theorem setPc_status (w : Word) : (setPc s w).status = s.status := rfl
@[simp] theorem setPc_modeStrap (w : Word) : (setPc s w).modeStrap = s.modeStrap := rfl
@[simp] theorem setPc_cfg (w : Word) : (setPc s w).cfg = s.cfg := rfl
@[simp] theorem setPc_draws (w : Word) : (setPc s w).draws = s.draws := rfl
@[simp] theorem setPc_diag (w : Word) : (setPc s w).diag = s.diag := rfl

/-! `setStack` -/

@[simp] theorem setStack_v (k : List Word) : (setStack s k).v = s.v := rfl
@[simp] theorem setStack_index (k : List Word) : (setStack s k).index = s.index := rfl
@[simp] theorem setStack_pc (k : List Word) : (setStack s k).pc = s.pc := rfl
@[simp] theorem setStack_stack (k : List Word) : (setStack s k).stack = k := rfl
@[simp] theorem setStack_mem (k : List Word) : (setStack s k).mem = s.mem := rfl
@[simp] theorem setStack_fb (k : List Word) : (setStack s k).fb = s.fb := rfl
@[simp] theorem setStack_dirty (k : List Word) : (setStack s k).dirty = s.dirty := rfl
@[simp] theorem setStack_dt (k : List Word) : (setStack s k).dt = s.dt := rfl
@[simp] theorem setStack_st (k : List Word) : (setStack s k).st = s.st := rfl
@[simp] theorem setStack_acc (k : List Word) : (setStack s k).acc = s.acc := rfl
@[simp] theorem setStack_key (k : List Word) : (setStack s k).key = s.key := rfl
@[simp] theorem setStack_mode (k : List Word) : (setStack s k).mode = s.mode := rfl
@[simp] theorem setStack_cps (k : List Word) : (setStack s k).cps = s.cps := rfl
@[simp] theorem setStack_status (k : List Word) : (setStack s k).status = s.status := rfl
@[simp] theorem setStack_modeStrap (k : List Word) : (setStack s k).modeStrap = s.modeStrap := rfl
@[simp] theorem setStack_cfg (k : List Word) : (setStack s k).cfg = s.cfg := rfl
@[simp] theorem setStack_draws (k : List Word) : (setStack s k).draws = s.draws := rfl
@[simp] theorem setStack_diag (k : List Word) : (setStack s k).diag = s.diag := rfl

/-! `setMem` -/

@[simp] theorem setMem_v (m : Memory) : (setMem s m).v = s.v := rfl
@[simp] theorem setMem_index (m : Memory) : (setMem s m).index = s.index := rfl
@[simp] theorem setMem_pc (m : Memory) : (setMem s m).pc = s.pc := rfl
@[simp] theorem setMem_stack (m : Memory) : (setMem s m).stack = s.stack := rfl
@[simp] theorem setMem_mem (m : Memory) : (setMem s m).mem = m := rfl
@[simp] theorem setMem_fb (m : Memory) : (setMem s m).fb = s.fb := rfl
@[simp] theorem setMem_dirty (m : Memory) : (setMem s m).dirty = s.dirty := rfl
@[simp] theorem setMem_dt (m : Memory) : (setMem s m).dt = s.dt := rfl
@[simp] theorem setMem_st (m : Memory) : (setMem s m).st = s.st := rfl
@[simp] theorem setMem_acc (m : Memory) : (setMem s m).acc = s.acc := rfl
@[simp] theorem setMem_key (m : Memory) : (setMem s m).key = s.key := rfl
@[simp] theorem setMem_mode (m : Memory) : (setMem s m).mode = s.mode := rfl
@[simp] theorem setMem_cps (m : Memory) : (setMem s m).cps = s.cps := rfl
@[simp] theorem setMem_status (m : Memory) : (setMem s m).status = s.status := rfl
@[simp] theorem setMem_modeStrap (m : Memory) : (setMem s m).modeStrap = s.modeStrap := rfl
@[simp] theorem setMem_cfg (m : Memory) : (setMem s m).cfg = s.cfg := rfl
@[simp] theorem setMem_draws (m : Memory) : (setMem s m).draws = s.draws := rfl
@[simp] theorem setMem_diag (m : Memory) : (setMem s m).diag = s.diag := rfl

/-! `setFb` -/

@[simp] theorem setFb_v (f : Frame) : (setFb s f).v = s.v := rfl
@[simp] theorem setFb_index (f : Frame) : (setFb s f).index = s.index := rfl
@[simp] theorem setFb_pc (f : Frame) : (setFb s f).pc = s.pc := rfl
@[simp] theorem setFb_stack (f : Frame) : (setFb s f).stack = s.stack := rfl
@[simp] theorem setFb_mem (f : Frame) : (setFb s f).mem = s.mem := rfl
@[simp] theorem setFb_fb (f : Frame) : (setFb s f).fb = f := rfl
@[simp] theorem setFb_dirty (f : Frame) : (setFb s f).dirty = s.dirty := rfl
@[simp] theorem setFb_dt (f : Frame) : (setFb s f).dt = s.dt := rfl
@[simp] theorem setFb_st (f : Frame) : (setFb s f).st = s.st := rfl
@[simp] theorem setFb_acc (f : Frame) : (setFb s f).acc = s.acc := rfl
@[simp] theorem setFb_key (f : Frame) : (setFb s f).key = s.key := rfl
@[simp] theorem setFb_mode (f : Frame) : (setFb s f).mode = s.mode := rfl
@[simp] theorem setFb_cps (f : Frame) : (setFb s f).cps = s.cps := rfl
@[simp] theorem setFb_status (f : Frame) : (setFb s f).status = s.status := rfl
@[simp] theorem setFb_modeStrap (f : Frame) : (setFb s f).modeStrap = s.modeStrap := rfl
@[simp] theorem setFb_cfg (f : Frame) : (setFb s f).cfg = s.cfg := rfl
@[simp] theorem setFb_draws (f : Frame) : (setFb s f).draws = s.draws := rfl
@[simp] theorem setFb_diag (f : Frame) : (setFb s f).diag = s.diag := rfl

/-! `setDirty` -/

@[simp] theorem setDirty_v (d : Bool) : (setDirty s d).v = s.v := rfl
@[simp] theorem setDirty_index (d : Bool) : (setDirty s d).index = s.index := rfl
@[simp] theorem setDirty_pc (d : Bool) : (setDirty s d).pc = s.pc := rfl
@[simp] theorem setDirty_stack (d : Bool) : (setDirty s d).stack = s.stack := rfl
@[simp] theorem setDirty_mem (d : Bool) : (setDirty s d).mem = s.mem := rfl
@[simp] theorem setDirty_fb (d : Bool) : (setDirty s d).fb = s.fb := rfl
@[simp] theorem setDirty_dirty (d : Bool) : (setDirty s d).dirty = d := rfl
@[simp] theorem setDirty_dt (d : Bool) : (setDirty s d).dt = s.dt := rfl
@[simp] theorem setDirty_st (d : Bool) : (setDirty s d).st = s.st := rfl
@[simp] theorem setDirty_acc (d : Bool) : (setDirty s d).acc = s.acc := rfl
@[simp] theorem setDirty_key (d : Bool) : (setDirty s d).key = s.key := rfl
@[simp] theorem setDirty_mode (d : Bool) : (setDirty s d).mode = s.mode := rfl
@[simp] theorem setDirty_cps (d : Bool) : (setDirty s d).cps = s.cps := rfl
@[simp] theorem setDirty_status (d : Bool) : (setDirty s d).status = s.status := rfl
@[simp] theorem setDirty_modeStrap (d : Bool) : (setDirty s d).modeStrap = s.modeStrap := rfl
@[simp] theorem setDirty_cfg (d : Bool) : (setDirty s d).cfg = s.cfg := rfl
@[simp] theorem setDirty_draws (d : Bool) : (setDirty s d).draws = s.draws := rfl
@[simp] theorem setDirty_diag (d : Bool) : (setDirty s d).diag = s.diag := rfl

/-! `setDt` -/

@[simp] theorem setDt_v (b : Byte) : (setDt s b).v = s.v := rfl
@[simp] theorem setDt_index (b : Byte) : (setDt s b).index = s.index := rfl
@[simp] theorem setDt_pc (b : Byte) : (setDt s b).pc = s.pc := rfl
@[simp] theorem setDt_stack (b : Byte) : (setDt s b).stack = s.stack := rfl
@[simp] theorem setDt_mem (b : Byte) : (setDt s b).mem = s.mem := rfl
@[simp] theorem setDt_fb (b : Byte) : (setDt s b).fb = s.fb := rfl
@[simp] theorem setDt_dirty (b : Byte) : (setDt s b).dirty = s.dirty := rfl
@[simp] theorem setDt_dt (b : Byte) : (setDt s b).dt = b := rfl
@[simp] theorem setDt_st (b : Byte) : (setDt s b).st = s.st := rfl
@[simp] theorem setDt_acc (b : Byte) : (setDt s b).acc = s.acc := rfl
@[simp] theorem setDt_key (b : Byte) : (setDt s b).key = s.key := rfl
@[simp] theorem setDt_mode (b : Byte) : (setDt s b).mode = s.mode := rfl
@[simp] theorem setDt_cps (b : Byte) : (setDt s b).cps = s.cps := rfl
@[simp] theorem setDt_status (b : Byte) : (setDt s b).status = s.status := rfl
@[simp] theorem setDt_modeStrap (b : Byte) : (setDt s b).modeStrap = s.modeStrap := rfl
@[simp] theorem setDt_cfg (b : Byte) : (setDt s b).cfg = s.cfg := rfl
@[simp] theorem setDt_draws (b : Byte) : (setDt s b).draws = s.draws := rfl
@[simp] theorem setDt_diag (b : Byte) : (setDt s b).diag = s.diag := rfl

/-! `setSt` -/

@[simp] theorem setSt_v (b : Byte) : (setSt s b).v = s.v := rfl
@[simp] theorem setSt_index (b : Byte) : (setSt s b).index = s.index := rfl
@[simp] theorem setSt_pc (b : Byte) : (setSt s b).pc = s.pc := rfl
@[simp] theorem setSt_stack (b : Byte) : (setSt s b).stack = s.stack := rfl
@[simp] theorem setSt_mem (b : Byte) : (setSt s b).mem = s.mem := rfl
@[simp] theorem setSt_fb (b : Byte) : (setSt s b).fb = s.fb := rfl
@[simp] theorem setSt_dirty (b : Byte) : (setSt s b).dirty = s.dirty := rfl
@[simp] theorem setSt_dt (b : Byte) : (setSt s b).dt = s.dt := rfl
@[simp] theorem setSt_st (b : Byte) : (setSt s b).st = b := rfl
@[simp] theorem setSt_acc (b : Byte) : (setSt s b).acc = s.acc := rfl
@[simp] theorem setSt_key (b : Byte) : (setSt s b).key = s.key := rfl
@[simp] theorem setSt_mode (b : Byte) : (setSt s b).mode = s.mode := rfl
@[simp] theorem setSt_cps (b : Byte) : (setSt s b).cps = s.cps := rfl
@[simp] theorem setSt_status (b : Byte) : (setSt s b).status = s.status := rfl
@[simp] theorem setSt_modeStrap (b : Byte) : (setSt s b).modeStrap = s.modeStrap := rfl
@[simp] theorem setSt_cfg (b : Byte) : (setSt s b).cfg = s.cfg := rfl
@[simp] theorem setSt_draws (b : Byte) : (setSt s b).draws = s.draws := rfl
@[simp] theorem setSt_diag (b : Byte) : (setSt s b).diag = s.diag := rfl

/-! `setAcc` -/

@[simp] theorem setAcc_v (a : Rat) : (setAcc s a).v = s.v := rfl
@[simp] theorem setAcc_index (a : Rat) : (setAcc s a).index = s.index := rfl
@[simp] theorem setAcc_pc (a : Rat) : (setAcc s a).pc = s.pc := rfl
@[simp] theorem setAcc_stack (a : Rat) : (setAcc s a).stack = s.stack := rfl
@[simp] theorem setAcc_mem (a : Rat) : (setAcc s a).mem = s.mem := rfl
@[simp] theorem setAcc_fb (a : Rat) : (setAcc s a).fb = s.fb := rfl
@[simp] theorem setAcc_dirty (a : Rat) : (setAcc s a).dirty = s.dirty := rfl
@[simp] theorem setAcc_dt (a : Rat) : (setAcc s a).dt = s.dt := rfl
@[simp] theorem setAcc_st (a : Rat) : (setAcc s a).st = s.st := rfl
@[simp] theorem setAcc_acc (a : Rat) : (setAcc s a).acc = a := rfl
@[simp] theorem setAcc_key (a : Rat) : (setAcc s a).key = s.key := rfl
@[simp] theorem setAcc_mode (a : Rat) : (setAcc s a).mode = s.mode := rfl
@[simp] theorem setAcc_cps (a : Rat) : (setAcc s a).cps = s.cps := rfl
@[simp] theorem setAcc_status (a : Rat) : (setAcc s a).status = s.status := rfl
@[simp] theorem setAcc_modeStrap (a : Rat) : (setAcc s a).modeStrap = s.modeStrap := rfl
@[simp] theorem setAcc_cfg (a : Rat) : (setAcc s a).cfg = s.cfg := rfl
@[simp] theorem setAcc_draws (a : Rat) : (setAcc s a).draws = s.draws := rfl
@[simp] theorem setAcc_diag (a : Rat) : (setAcc s a).diag = s.diag := rfl

/-! `setKeys` -/

@[simp] theorem setKeys_v (k : Vector Bool 16) : (setKeys s k).v = s.v := rfl
@[simp] theorem setKeys_index (k : Vector Bool 16) : (setKeys s k).index = s.index := rfl
@[simp] theorem setKeys_pc (k : Vector Bool 16) : (setKeys s k).pc = s.pc := rfl
@[simp] theorem setKeys_stack (k : Vector Bool 16) : (setKeys s k).stack = s.stack := rfl
@[simp] theorem setKeys_mem (k : Vector Bool 16) : (setKeys s k).mem = s.mem := rfl
@[simp] theorem setKeys_fb (k : Vector Bool 16) : (setKeys s k).fb = s.fb := rfl
@[simp] theorem setKeys_dirty (k : Vector Bool 16) : (setKeys s k).dirty = s.dirty := rfl
@[simp] theorem setKeys_dt (k : Vector Bool 16) : (setKeys s k).dt = s.dt := rfl
@[simp] theorem setKeys_st (k : Vector Bool 16) : (setKeys s k).st = s.st := rfl
@[simp] theorem setKeys_acc (k : Vector Bool 16) : (setKeys s k).acc = s.acc := rfl
@[simp] theorem setKeys_key (k : Vector Bool 16) : (setKeys s k).key = k := rfl
@[simp] theorem setKeys_mode (k : Vector Bool 16) : (setKeys s k).mode = s.mode := rfl
@[simp] theorem setKeys_cps (k : Vector Bool 16) : (setKeys s k).cps = s.cps := rfl
@[simp] theorem setKeys_status (k : Vector Bool 16) : (setKeys s k).status = s.status := rfl
@[simp] theorem setKeys_modeStrap (k : Vector Bool 16) : (setKeys s k).modeStrap = s.modeStrap := rfl
@[simp] theorem setKeys_cfg (k : Vector Bool 16) : (setKeys s k).cfg = s.cfg := rfl
@[simp] theorem setKeys_draws (k : Vector Bool 16) : (setKeys s k).draws = s.draws := rfl
@[simp] theorem setKeys_diag (k : Vector Bool 16) : (setKeys s k).diag = s.diag := rfl

/-! `setCps` -/

@[simp] theorem setCps_v (r : Rat) : (setCps s r).v = s.v := rfl
@[simp] theorem setCps_index (r : Rat) : (setCps s r).index = s.index := rfl
@[simp] theorem setCps_pc (r : Rat) : (setCps s r).pc = s.pc := rfl
@[simp] theorem setCps_stack (r : Rat) : (setCps s r).stack = s.stack := rfl
@[simp] theorem setCps_mem (r : Rat) : (setCps s r).mem = s.mem := rfl
@[simp] theorem setCps_fb (r : Rat) : (setCps s r).fb = s.fb := rfl
@[simp] theorem setCps_dirty (r : Rat) : (setCps s r).dirty = s.dirty := rfl
@[simp] theorem setCps_dt (r : Rat) : (setCps s r).dt = s.dt := rfl
@[simp] theorem setCps_st (r : Rat) : (setCps s r).st = s.st := rfl
@[simp] theorem setCps_acc (r : Rat) : (setCps s r).acc = s.acc := rfl
@[simp] theorem setCps_key (r : Rat) : (setCps s r).key = s.key := rfl
@[simp] theorem setCps_mode (r : Rat) : (setCps s r).mode = s.mode := rfl
@[simp] theorem setCps_cps (r : Rat) : (setCps s r).cps = r := rfl
@[simp] theorem setCps_status (r : Rat) : (setCps s r).status = s.status := rfl
@[simp] theorem setCps_modeStrap (r : Rat) : (setCps s r).modeStrap = s.modeStrap := rfl
@[simp] theorem setCps_cfg (r : Rat) : (setCps s r).cfg = s.cfg := rfl
@[simp] theorem setCps_draws (r : Rat) : (setCps s r).draws = s.draws := rfl
@[simp] theorem setCps_diag (r : Rat) : (setCps s r).diag = s.diag := rfl

/-! `setStatus` -/

@[simp] theorem setStatus_v (x : Status) : (setStatus s x).v = s.v := rfl
@[simp] theorem setStatus_index (x : Status) : (setStatus s x).index = s.index := rfl
@[simp] theorem setStatus_pc (x : Status) : (setStatus s x).pc = s.pc := rfl
@[simp] theorem setStatus_stack (x : Status) : (setStatus s x).stack = s.stack := rfl
@[simp] theorem setStatus_mem (x : Status) : (setStatus s x).mem = s.mem := rfl
@[simp] theorem setStatus_fb (x : Status) : (setStatus s x).fb = s.fb := rfl
@[simp] theorem setStatus_dirty (x : Status) : (setStatus s x).dirty = s.dirty := rfl
@[simp] theorem setStatus_dt (x : Status) : (setStatus s x).dt = s.dt := rfl
@[simp] theorem setStatus_st (x : Status) : (setStatus s x).st = s.st := rfl
@[simp] theorem setStatus_acc (x : Status) : (setStatus s x).acc = s.acc := rfl
@[simp] theorem setStatus_key (x : Status) : (setStatus s x).key = s.key := rfl
@[simp] theorem setStatus_mode (x : Status) : (setStatus s x).mode = s.mode := rfl
@[simp] theorem setStatus_cps (x : Status) : (setStatus s x).cps = s.cps := rfl
@[simp] theorem setStatus_status (x : Status) : (setStatus s x).status = x := rfl
@[simp] theorem setStatus_modeStrap (x : Status) : (setStatus s x).modeStrap = s.modeStrap := rfl
@[simp] theorem setStatus_cfg (x : Status) : (setStatus s x).cfg = s.cfg := rfl
@[simp] theorem setStatus_draws (x : Status) : (setStatus s x).draws = s.draws := rfl
@[simp] theorem setStatus_diag (x : Status) : (setStatus s x).diag = s.diag := rfl

/-! `setStrap` -/

@[simp] theorem setStrap_v (m : Mode) : (setStrap s m).v = s.v := rfl
@[simp] theorem setStrap_index (m : Mode) : (setStrap s m).index = s.index := rfl
@[simp] theorem setStrap_pc (m : Mode) : (setStrap s m).pc = s.pc := rfl
@[simp] theorem setStrap_stack (m : Mode) : (setStrap s m).stack = s.stack := rfl
@[simp] theorem setStrap_mem (m : Mode) : (setStrap s m).mem = s.mem := rfl
@[simp] theorem setStrap_fb (m : Mode) : (setStrap s m).fb = s.fb := rfl
@[simp] theorem setStrap_dirty (m : Mode) : (setStrap s m).dirty = s.dirty := rfl
@[simp] theorem setStrap_dt (m : Mode) : (setStrap s m).dt = s.dt := rfl
@[simp] theorem setStrap_st (m : Mode) : (setStrap s m).st = s.st := rfl
@[simp] theorem setStrap_acc (m : Mode) : (setStrap s m).acc = s.acc := rfl
@[simp] theorem setStrap_key (m : Mode) : (setStrap s m).key = s.key := rfl
@[simp] theorem setStrap_mode (m : Mode) : (setStrap s m).mode = s.mode := rfl
@[simp] theorem setStrap_cps (m : Mode) : (setStrap s m).cps = s.cps := rfl
@[simp] theorem setStrap_status (m : Mode) : (setStrap s m).status = s.status := rfl
@[simp] theorem setStrap_modeStrap (m : Mode) : (setStrap s m).modeStrap = m := rfl
@[simp] theorem setStrap_cfg (m : Mode) : (setStrap s m).cfg = s.cfg := rfl
@[simp] theorem setStrap_draws (m : Mode) : (setStrap s m).draws = s.draws := rfl
@[simp] theorem setStrap_diag (m : Mode) : (setStrap s m).diag = s.diag := rfl

/-! `countDraw` -/

@[simp] theorem countDraw_v : (countDraw s).v = s.v := rfl
@[simp] theorem countDraw_index : (countDraw s).index = s.index := rfl
@[simp] theorem countDraw_pc : (countDraw s).pc = s.pc := rfl
@[simp] theorem countDraw_stack : (countDraw s).stack = s.stack := rfl
@[simp] theorem countDraw_mem : (countDraw s).mem = s.mem := rfl
@[simp] theorem countDraw_fb : (countDraw s).fb = s.fb := rfl
@[simp] theorem countDraw_dirty : (countDraw s).dirty = s.dirty := rfl
@[simp] theorem countDraw_dt : (countDraw s).dt = s.dt := rfl
@[simp] theorem countDraw_st : (countDraw s).st = s.st := rfl
@[simp] theorem countDraw_acc : (countDraw s).acc = s.acc := rfl
@[simp] theorem countDraw_key : (countDraw s).key = s.key := rfl
@[simp] theorem countDraw_mode : (countDraw s).mode = s.mode := rfl
@[simp] theorem countDraw_cps : (countDraw s).cps = s.cps := rfl
@[simp] theorem countDraw_status : (countDraw s).status = s.status := rfl
@[simp] theorem countDraw_modeStrap : (countDraw s).modeStrap = s.modeStrap := rfl
@[simp] theorem countDraw_cfg : (countDraw s).cfg = s.cfg := rfl
@[simp] theorem countDraw_draws : (countDraw s).draws = s.draws + 1 := rfl
@[simp] theorem countDraw_diag : (countDraw s).diag = s.diag := rfl

/-! `emitDiag` -/

@[simp] theorem emitDiag_v (w a : Word) : (emitDiag w a s).v = s.v := rfl
@[simp] theorem emitDiag_index (w a : Word) : (emitDiag w a s).index = s.index := rfl
@[simp] theorem emitDiag_pc (w a : Word) : (emitDiag w a s).pc = s.pc := rfl
@[simp] theorem emitDiag_stack (w a : Word) : (emitDiag w a s).stack = s.stack := rfl
@[simp] theorem emitDiag_mem (w a : Word) : (emitDiag w a s).mem = s.mem := rfl
@[simp] theorem emitDiag_fb (w a : Word) : (emitDiag w a s).fb = s.fb := rfl
@[simp] theorem emitDiag_dirty (w a : Word) : (emitDiag w a s).dirty = s.dirty := rfl
@[simp] theorem emitDiag_dt (w a : Word) : (emitDiag w a s).dt = s.dt := rfl
@[simp] theorem emitDiag_st (w a : Word) : (emitDiag w a s).st = s.st := rfl
@[simp] theorem emitDiag_acc (w a : Word) : (emitDiag w a s).acc = s.acc := rfl
@[simp] theorem emitDiag_key (w a : Word) : (emitDiag w a s).key = s.key := rfl
@[simp] theorem emitDiag_mode (w a : Word) : (emitDiag w a s).mode = s.mode := rfl
@[simp] theorem emitDiag_cps (w a : Word) : (emitDiag w a s).cps = s.cps := rfl
@[simp] theorem emitDiag_status (w a : Word) : (emitDiag w a s).status = s.status := rfl
@[simp] theorem emitDiag_modeStrap (w a : Word) : (emitDiag w a s).modeStrap = s.modeStrap := rfl
@[simp] theorem emitDiag_cfg (w a : Word) : (emitDiag w a s).cfg = s.cfg := rfl
@[simp] theorem emitDiag_draws (w a : Word) : (emitDiag w a s).draws = s.draws := rfl
@[simp] theorem emitDiag_diag (w a : Word) : (emitDiag w a s).diag = ⟨w, a⟩ :: s.diag := rfl

end Sys2Proof.Machine
end

