-- ==== Sys2Proof/Laws/Ops.lean ====
section
/-! SUPPORT. One lemma per shared operation, saying everything it can do: registers, flags, skips, the stack, the operand
forms. -/

namespace Sys2Proof.Machine

/-! ## Registers and flags -/

theorem getV_setV (s : State) (x : Reg) (b : Byte) (r : Reg) : getV (setV s x b) r = if r = x then b else getV s r := by
  by_cases h : r = x
  · simp [getV, setV, h]
  · have : x.val ≠ r.val := fun hv => h (Fin.ext hv.symm)
    simp [getV, setV, h, this]

/-- The result in `V[x]`, the flag in `VF`, the flag winning (R163). -/
theorem getV_setVFlag (s : State) (x : Reg) (b f : Byte) (r : Reg) :
    getV (setVFlag s x b f) r = if r = VF then f else if r = x then b else getV s r := by
  simp only [setVFlag, getV_setV]

/-- What a flag write leaves: only the registers change. -/
theorem setVFlag_eq (s : State) (x : Reg) (b f : Byte) : setVFlag s x b f = { s with v := (setVFlag s x b f).v } := rfl

@[simp] theorem flagByte_true : flagByte true = 1 := rfl

@[simp] theorem flagByte_false : flagByte false = 0 := rfl

theorem flagByte_toNat (c : Bool) : (flagByte c).toNat = if c then 1 else 0 := by
  cases c <;> rfl

/-! ## `PC` and the stack -/

/-- A skip changes `PC` alone, by 2 when its condition holds (R132). -/
theorem skipIf_eq (c : Bool) (s : State) : skipIf c s = { s with pc := if c then s.pc + 2 else s.pc } := by
  cases c <;> rfl

theorem stackFull_iff (s : State) : stackFull s = true ↔ ∃ d, s.cfg.stackDepth = some d ∧ d ≤ s.stack.length := by
  unfold stackFull
  cases s.cfg.stackDepth <;> simp

/-- A push: onto a stack that is not full it goes on with the word on top, else it raises StackOverflow (R123). -/
theorem pushThen_cases (w : Word) (s : State) (k : State → State) :
    (stackFull s = false ∧ pushThen w s k = k { s with stack := w :: s.stack }) ∨
    (stackFull s = true ∧ pushThen w s k = { s with status := .fatal .stackOverflow }) := by
  unfold pushThen
  cases stackFull s
  · exact .inl ⟨rfl, rfl⟩
  · exact .inr ⟨rfl, rfl⟩

/-- A pop: off a stack that is not empty it goes on with the top, else it raises StackUnderflow (R122). -/
theorem popThen_cases (s : State) (k : Word → State → State) :
    (∃ t rest, s.stack = t :: rest ∧ popThen s k = k t { s with stack := rest }) ∨
    (s.stack = [] ∧ popThen s k = { s with status := .fatal .stackUnderflow }) := by
  cases h : s.stack with
  | nil => exact .inr ⟨rfl, by simp only [popThen, h]; simp [raiseFatal, setStatus, h]⟩
  | cons t rest => exact .inl ⟨t, rest, rfl, by simp only [popThen, h]; rfl⟩

/-! ## Operand forms -/

@[simp] theorem addrWord_toNat (nnn : Addr12) : (addrWord nnn).toNat = nnn.toNat := by
  simp only [addrWord, BitVec.toNat_setWidth]
  omega

@[simp] theorem byteWord_toNat (b : Byte) : (byteWord b).toNat = b.toNat := by
  simp only [byteWord, BitVec.toNat_setWidth]
  omega

@[simp] theorem glyphAddress_toNat (b : Byte) : (glyphAddress b).toNat = b.toNat * 5 := by
  have h5 : (5 : Word).toNat = 5 := rfl
  simp only [glyphAddress, BitVec.toNat_mul, byteWord_toNat, h5]
  omega

@[simp] theorem indexByte_toNat (k : Fin 16) : (indexByte k).toNat = k.val := by
  simp only [indexByte, BitVec.toNat_ofNat]
  omega

/-- The key scan finds the least held key (R225). -/
theorem firstKey_eq_some (s : State) (k : Fin 16) :
    firstKey s = some k ↔ s.key[k] = true ∧ ∀ j < k, s.key[j] = false := by
  unfold firstKey
  rw [List.find?_eq_some_iff_getElem]
  constructor
  · rintro ⟨hk, i, hi, rfl, hlt⟩
    refine ⟨hk, fun j hj => ?_⟩
    have hj' : j.val < i := by simpa [Fin.lt_def] using hj
    simpa using hlt j.val hj'
  · rintro ⟨hk, hlt⟩
    refine ⟨hk, k.val, by simp, by simp, fun j hj => ?_⟩
    have := hlt ⟨j, by omega⟩ (by simpa [Fin.lt_def] using hj)
    simpa using this

/-- The key scan finds nothing exactly when no key is held. -/
theorem firstKey_eq_none (s : State) : firstKey s = none ↔ ∀ j : Fin 16, s.key[j] = false := by
  simp [firstKey, List.find?_eq_none]

@[simp] theorem regsThrough_length (s : State) (x : Reg) : (regsThrough s x).length = x.val + 1 := by
  simp [regsThrough]

@[simp] theorem regsThrough_getElem (s : State) (x : Reg) (k : Nat) (h : k < (regsThrough s x).length) :
    (regsThrough s x)[k] = getV s ⟨k, by simp at h; omega⟩ := by
  simp [regsThrough, getV]

theorem loadedRegs_getElem (s : State) (x k : Reg) :
    (loadedRegs s x)[k] = if k ≤ x then memRead s.mem (s.index.toNat + k.val) else getV s k := by
  simp [loadedRegs, getV]

/-- The index register after a block of `x + 1` bytes (R184, R185). -/
theorem advanceIndex_toNat (x : Reg) (s : State) :
    (advanceIndex x s).index.toNat = (s.index.toNat + x.val + 1) % 65536 := by
  simp only [advanceIndex, setIndex_index, BitVec.toNat_add, BitVec.toNat_ofNat]
  omega

end Sys2Proof.Machine
end

