-- ==== Sys2Proof/Laws/Cycle.lean ====
section
/-! SUPPORT. What one step can do, said once, and the fields of the timer step. -/

namespace Sys2Proof.Machine

/-! ## The end of a cycle -/

theorem endCycle_running (s0 s1 : State) (h : s1.status = .running) : endCycle s0 s1 = timerStep s1 := by
  simp [endCycle, h]

theorem endCycle_fatal (s0 s1 : State) (e : FatalEvent) (h : s1.status = .fatal e) :
    endCycle s0 s1 = { s0 with status := .fatal e } := by
  simp [endCycle, h, raiseFatal, setStatus]

/-! ## The step -/

theorem step_fatal (s : State) (e : FatalEvent) (h : s.status = .fatal e) : step s = .next s := by
  simp [step, h]

theorem step_running (s : State) (h : s.status = .running) : step s = runCycle s := by
  simp [step, h]

/-- A running core's cycle on a word that decodes. -/
theorem step_of_decode (s : State) (i : Instr) (h : s.status = .running) (hi : decodeWord (fetchWord s) = .ok i) :
    step s = finishCycle s (exec i (advancePc s)) := by
  simp [step_running s h, runCycle, executeWord, hi]

/-- A running core's cycle on a word that does not decode. -/
theorem step_of_reject (s : State) (r : Reject) (h : s.status = .running) (hr : decodeWord (fetchWord s) = .error r) :
    step s = .next (endCycle s (emitDiag (fetchWord s) s.pc (advancePc s))) := by
  simp [step_running s h, runCycle, executeWord, hr, execUnrecognised, finishCycle]

/-- Everything a step that answers a next state can have done. -/
theorem step_cases {s t : State} (h : step s = .next t) :
    (∃ e, s.status = .fatal e ∧ t = s) ∨
    (s.status = .running ∧ ∃ s1, t = endCycle s s1 ∧
      ((∃ i, decodeWord (fetchWord s) = .ok i ∧ exec i (advancePc s) = .next s1) ∨
       (∃ r, decodeWord (fetchWord s) = .error r ∧ s1 = emitDiag (fetchWord s) s.pc (advancePc s)))) := by
  cases hs : s.status with
  | fatal e =>
    rw [step_fatal s e hs] at h
    exact .inl ⟨e, rfl, by injection h with h; exact h.symm⟩
  | running =>
    refine .inr ⟨rfl, ?_⟩
    cases hd : decodeWord (fetchWord s) with
    | error r =>
      rw [step_of_reject s r hs hd] at h
      injection h with h
      exact ⟨_, h.symm, .inr ⟨r, rfl, rfl⟩⟩
    | ok i =>
      rw [step_of_decode s i hs hd] at h
      cases he : exec i (advancePc s) with
      | next s1 =>
        rw [he, finishCycle] at h
        injection h with h
        exact ⟨s1, h.symm, .inl ⟨i, rfl, he⟩⟩
      | fault f => cases f
      | refused r =>
        rw [he] at h
        cases h

/-- The end of a cycle is a timer step or the halt in the state the cycle began in. -/
theorem endCycle_cases (s0 s1 : State) :
    (s1.status = .running ∧ endCycle s0 s1 = timerStep s1) ∨
    (∃ e, s1.status = .fatal e ∧ endCycle s0 s1 = { s0 with status := .fatal e }) := by
  cases h : s1.status with
  | running => exact .inl ⟨rfl, endCycle_running s0 s1 h⟩
  | fatal e => exact .inr ⟨e, rfl, endCycle_fatal s0 s1 e h⟩

/-! ## The timer step -/

/-- The timer step writes `ACC`, `DT`, `ST` only (R255). -/
theorem timerStep_eq (s : State) :
    timerStep s = { s with acc := (timerStep s).acc, dt := (timerStep s).dt, st := (timerStep s).st } := by
  cases s
  rfl

theorem countDown_toNat (b : Byte) : (countDown b).toNat = b.toNat - 1 := by
  unfold countDown
  split
  · simp_all
  · have : b.toNat ≠ 0 := fun h => by simp_all [BitVec.toNat_eq]
    have h1 : (1 : Byte).toNat = 1 := rfl
    rw [BitVec.toNat_sub, h1]
    omega

theorem timerStep_acc (s : State) :
    (timerStep s).acc = if 1 ≤ s.acc + 60 / s.cps then s.acc + 60 / s.cps - 1 else s.acc + 60 / s.cps := by
  by_cases h : 1 ≤ s.acc + 60 / s.cps <;> simp [timerStep, ticks, accIncrement, setAcc, setDt, setSt, h]

theorem timerStep_dt (s : State) :
    (timerStep s).dt = if 1 ≤ s.acc + 60 / s.cps then countDown s.dt else s.dt := by
  by_cases h : 1 ≤ s.acc + 60 / s.cps <;> simp [timerStep, ticks, accIncrement, setAcc, setDt, setSt, h]

theorem timerStep_st (s : State) :
    (timerStep s).st = if 1 ≤ s.acc + 60 / s.cps then countDown s.st else s.st := by
  by_cases h : 1 ≤ s.acc + 60 / s.cps <;> simp [timerStep, ticks, accIncrement, setAcc, setDt, setSt, h]

@[simp] theorem timerStep_v (s : State) : (timerStep s).v = s.v := by rw [timerStep_eq]
@[simp] theorem timerStep_index (s : State) : (timerStep s).index = s.index := by rw [timerStep_eq]
@[simp] theorem timerStep_pc (s : State) : (timerStep s).pc = s.pc := by rw [timerStep_eq]
@[simp] theorem timerStep_stack (s : State) : (timerStep s).stack = s.stack := by rw [timerStep_eq]
@[simp] theorem timerStep_mem (s : State) : (timerStep s).mem = s.mem := by rw [timerStep_eq]
@[simp] theorem timerStep_fb (s : State) : (timerStep s).fb = s.fb := by rw [timerStep_eq]
@[simp] theorem timerStep_dirty (s : State) : (timerStep s).dirty = s.dirty := by rw [timerStep_eq]
@[simp] theorem timerStep_key (s : State) : (timerStep s).key = s.key := by rw [timerStep_eq]
@[simp] theorem timerStep_mode (s : State) : (timerStep s).mode = s.mode := by rw [timerStep_eq]
@[simp] theorem timerStep_cps (s : State) : (timerStep s).cps = s.cps := by rw [timerStep_eq]
@[simp] theorem timerStep_status (s : State) : (timerStep s).status = s.status := by rw [timerStep_eq]
@[simp] theorem timerStep_modeStrap (s : State) : (timerStep s).modeStrap = s.modeStrap := by rw [timerStep_eq]
@[simp] theorem timerStep_cfg (s : State) : (timerStep s).cfg = s.cfg := by rw [timerStep_eq]
@[simp] theorem timerStep_draws (s : State) : (timerStep s).draws = s.draws := by rw [timerStep_eq]
@[simp] theorem timerStep_diag (s : State) : (timerStep s).diag = s.diag := by rw [timerStep_eq]

end Sys2Proof.Machine
end

