-- ==== Sys2Proof/Laws/Decode.lean ====
section
/-! SUPPORT. The fields and the formats of an instruction word as arithmetic on its number, and each format taken apart and
put together again (R91, R92). -/

namespace Sys2Proof

/-! ## Numbers -/

theorem append_toNat {m n : Nat} (a : BitVec m) (b : BitVec n) : (a ++ b).toNat = 2 ^ n * a.toNat + b.toNat := by
  rw [BitVec.toNat_append, Nat.shiftLeft_eq, Nat.mul_comm, ← Nat.two_pow_add_eq_or_of_lt b.isLt]

theorem field_toNat (w : Word) (lo n : Nat) : (w.extractLsb' lo n).toNat = w.toNat / 2 ^ lo % 2 ^ n := by
  simp [BitVec.extractLsb'_toNat, Nat.shiftRight_eq_div_pow]

@[simp] theorem opField_toNat (w : Word) : (opField w).toNat = w.toNat / 4096 % 16 := field_toNat w 12 4

@[simp] theorem xField_val (w : Word) : (xField w).val = w.toNat / 256 % 16 := field_toNat w 8 4

@[simp] theorem yField_val (w : Word) : (yField w).val = w.toNat / 16 % 16 := field_toNat w 4 4

@[simp] theorem nField_toNat (w : Word) : (nField w).toNat = w.toNat % 16 :=
  (field_toNat w 0 4).trans (by simp)

@[simp] theorem kkField_toNat (w : Word) : (kkField w).toNat = w.toNat % 256 :=
  (field_toNat w 0 8).trans (by simp)

@[simp] theorem nnnField_toNat (w : Word) : (nnnField w).toNat = w.toNat % 4096 :=
  (field_toNat w 0 12).trans (by simp)

@[simp] theorem highByte_toNat (w : Word) : (highByte w).toNat = w.toNat / 256 := by
  have := field_toNat w 8 8
  have := w.isLt
  simp only [highByte]
  omega

@[simp] theorem lowByte_toNat (w : Word) : (lowByte w).toNat = w.toNat % 256 :=
  (field_toNat w 0 8).trans (by simp)

@[simp] theorem regBits_toNat (r : Reg) : (regBits r).toNat = r.val := rfl

theorem wordOfBytes_toNat (hi lo : Byte) : (wordOfBytes hi lo).toNat = hi.toNat * 256 + lo.toNat := by
  have := append_toNat hi lo
  simp only [wordOfBytes]
  omega

theorem formatXKK_toNat (op : BitVec 4) (x : Reg) (kk : Byte) :
    (formatXKK op x kk).toNat = op.toNat * 4096 + x.val * 256 + kk.toNat := by
  have h1 := append_toNat (op ++ regBits x) kk
  have h2 := append_toNat op (regBits x)
  simp only [regBits_toNat] at h2
  simp only [formatXKK]
  omega

theorem formatXYN_toNat (op : BitVec 4) (x y : Reg) (n : BitVec 4) :
    (formatXYN op x y n).toNat = op.toNat * 4096 + x.val * 256 + y.val * 16 + n.toNat := by
  have h1 := append_toNat (op ++ regBits x ++ regBits y) n
  have h2 := append_toNat (op ++ regBits x) (regBits y)
  have h3 := append_toNat op (regBits x)
  simp only [regBits_toNat] at h2 h3
  simp only [formatXYN]
  omega

theorem formatNNN_toNat (op : BitVec 4) (nnn : Addr12) : (formatNNN op nnn).toNat = op.toNat * 4096 + nnn.toNat := by
  have := append_toNat op nnn
  simp only [formatNNN]
  omega

/-! ## The fields of a format -/

theorem formatXKK_fields (op : BitVec 4) (x : Reg) (kk : Byte) :
    opField (formatXKK op x kk) = op ∧ xField (formatXKK op x kk) = x ∧ kkField (formatXKK op x kk) = kk := by
  have h := formatXKK_toNat op x kk
  refine ⟨BitVec.eq_of_toNat_eq ?_, Fin.ext ?_, BitVec.eq_of_toNat_eq ?_⟩ <;> simp <;> omega

theorem formatXYN_fields (op : BitVec 4) (x y : Reg) (n : BitVec 4) :
    opField (formatXYN op x y n) = op ∧ xField (formatXYN op x y n) = x ∧ yField (formatXYN op x y n) = y ∧
      nField (formatXYN op x y n) = n := by
  have h := formatXYN_toNat op x y n
  refine ⟨BitVec.eq_of_toNat_eq ?_, Fin.ext ?_, Fin.ext ?_, BitVec.eq_of_toNat_eq ?_⟩ <;> simp <;> omega

theorem formatNNN_fields (op : BitVec 4) (nnn : Addr12) :
    opField (formatNNN op nnn) = op ∧ nnnField (formatNNN op nnn) = nnn := by
  have h := formatNNN_toNat op nnn
  refine ⟨BitVec.eq_of_toNat_eq ?_, BitVec.eq_of_toNat_eq ?_⟩ <;> simp <;> omega

/-! ## A word from its fields -/

theorem formatXKK_of_fields (w : Word) : formatXKK (opField w) (xField w) (kkField w) = w := by
  have h := formatXKK_toNat (opField w) (xField w) (kkField w)
  simp only [opField_toNat, xField_val, kkField_toNat] at h
  exact BitVec.eq_of_toNat_eq (by omega)

theorem formatXYN_of_fields (w : Word) : formatXYN (opField w) (xField w) (yField w) (nField w) = w := by
  have h := formatXYN_toNat (opField w) (xField w) (yField w) (nField w)
  simp only [opField_toNat, xField_val, yField_val, nField_toNat] at h
  exact BitVec.eq_of_toNat_eq (by omega)

theorem formatNNN_of_fields (w : Word) : formatNNN (opField w) (nnnField w) = w := by
  have h := formatNNN_toNat (opField w) (nnnField w)
  simp only [opField_toNat, nnnField_toNat] at h
  exact BitVec.eq_of_toNat_eq (by omega)

/-- The two bytes of a word put together again (R65). -/
@[simp] theorem wordOfBytes_bytes (w : Word) : wordOfBytes (highByte w) (lowByte w) = w := by
  have h := wordOfBytes_toNat (highByte w) (lowByte w)
  simp only [highByte_toNat, lowByte_toNat] at h
  exact BitVec.eq_of_toNat_eq (by omega)

end Sys2Proof
end

