-- ==== Sys2Proof/Laws/Display.lean ====
section
/-! SUPPORT. What the framebuffer's operations do to each cell. -/

namespace Sys2Proof.Machine

theorem cell_of_lt (f : Frame) (y x : Nat) (hy : y < 32) (hx : x < 64) : cell f y x = f[y][x] := by
  simp [cell, hy, hx]

theorem cell_outside (f : Frame) (y x : Nat) (h : ¬(y < 32 ∧ x < 64)) : cell f y x = false := by
  simp [cell, h]

/-- Framebuffers with the same cells are the same. -/
theorem frame_ext {f g : Frame} (h : ∀ y x, y < 32 → x < 64 → cell f y x = cell g y x) : f = g := by
  refine Vector.ext fun y hy => Vector.ext fun x hx => ?_
  simpa [cell_of_lt _ _ _ hy hx] using h y x hy hx

@[simp] theorem cell_blankFrame (y x : Nat) : cell blankFrame y x = false := by
  by_cases h : y < 32 ∧ x < 64
  · simp [cell, h, blankFrame]
  · exact cell_outside _ _ _ h

/-- One toggle inverts its own cell, if there is one, and leaves every other cell. -/
theorem cell_toggle (f : Frame) (py px y x : Nat) :
    cell (toggle f py px) y x = (cell f y x ^^ decide (y = py ∧ x = px ∧ y < 32 ∧ x < 64)) := by
  by_cases hp : py < 32 ∧ px < 64
  · by_cases h : y < 32 ∧ x < 64
    · obtain ⟨hpy, hpx⟩ := hp
      obtain ⟨hy, hx⟩ := h
      by_cases hyy : y = py
      · subst hyy
        by_cases hxx : x = px
        · subst hxx
          simp [toggle, cell, hy, hx]
        · have : px ≠ x := fun e => hxx e.symm
          simp [toggle, cell, hy, hx, hpx, hxx, this]
      · have : py ≠ y := fun e => hyy e.symm
        simp [toggle, cell, hy, hx, hpy, hpx, hyy, this]
    · simp [cell_outside _ _ _ h]
      omega
  · have : ¬(y = py ∧ x = px ∧ y < 32 ∧ x < 64) := by omega
    simp [toggle, hp, this]

/-- A sprite bit that is 1 inverts its own cell and leaves every other cell. -/
theorem drawPixel_cell (py px : Nat) (d : Drawing) (y x : Nat) :
    cell (drawPixel py px d).1 y x = (cell d.1 y x ^^ decide (y = py ∧ x = px ∧ y < 32 ∧ x < 64)) :=
  cell_toggle _ _ _ _ _

/-- What one sprite bit does to each cell. -/
theorem drawBit_cell (c : Bool) (py px : Nat) (d : Drawing) (y x : Nat) :
    cell (if c then drawPixel py px d else d).1 y x =
      (cell d.1 y x ^^ (c && decide (y = py ∧ x = px ∧ y < 32 ∧ x < 64))) := by
  cases c <;> simp [drawPixel_cell]

/-- What the last `bits` columns of a sprite row do to each cell. -/
theorem drawColumns_cell (b : Byte) (py x0 : Nat) (hpy : py < 32) (bits : Nat) (hb : bits ≤ 8) (d : Drawing) (y x : Nat)
    (hx : x < 64) :
    cell (drawColumns b py x0 bits d).1 y x = (cell d.1 y x ^^
      (decide (y = py ∧ x0 + (8 - bits) ≤ x ∧ x < x0 + 8) && b.getLsbD (7 - (x - x0)))) := by
  induction bits generalizing d with
  | zero =>
    have : ¬ (y = py ∧ x0 + (8 - 0) ≤ x ∧ x < x0 + 8) := by omega
    simp only [drawColumns, decide_eq_false this, Bool.false_and, Bool.xor_false]
  | succ bits ih =>
    unfold drawColumns
    split
    · have : ¬ (y = py ∧ x0 + (8 - (bits+1)) ≤ x ∧ x < x0 + 8) := by omega
      simp only [decide_eq_false this, Bool.false_and, Bool.xor_false]
    · rw [ih (by omega), drawBit_cell, Bool.xor_assoc]
      congr 1
      by_cases hxx : y = py ∧ x = x0 + (7 - bits)
      · have h1 : ¬ (y = py ∧ x0 + (8 - bits) ≤ x ∧ x < x0 + 8) := by omega
        have h2 : (y = py ∧ x0 + (8 - (bits+1)) ≤ x ∧ x < x0 + 8) := by omega
        have h3 : 7 - (x - x0) = bits := by omega
        have h4 : (y = py ∧ x = x0 + (7 - bits) ∧ y < 32 ∧ x < 64) := by omega
        rw [decide_eq_false h1, decide_eq_true h2, decide_eq_true h4, h3]
        simp
      · have h4 : ¬ (y = py ∧ x = x0 + (7 - bits) ∧ y < 32 ∧ x < 64) := by omega
        have h5 : (y = py ∧ x0 + (8 - bits) ≤ x ∧ x < x0 + 8) ↔ (y = py ∧ x0 + (8 - (bits+1)) ≤ x ∧ x < x0 + 8) := by omega
        simp only [h5, decide_eq_false h4, Bool.and_false, Bool.false_xor]

end Sys2Proof.Machine
end

