-- ==== Sys2Proof/Laws/PerInstr.lean ====
section
/-! SUPPORT. The family `TableRow`, one lemma per instruction: its operands are in range (R92, R93) and its encoding
satisfies its own row of the opcode map (R95). -/

namespace Sys2Proof.Laws.TableRow

/-- The instruction is well-formed and its word satisfies its row's match and mask. -/
def Statement (i : Instr) : Prop := i.wellFormed = true ∧ matchesRow i (encode i) = true

/-- Under the mask of the top digit a word of format `XKK` is its opcode digit. -/
theorem formatXKK_mask_top (op : BitVec 4) (x : Reg) (kk : Byte) : formatXKK op x kk &&& 0xF000 = op ++ (0 : BitVec 12) := by
  ext j hj
  simp only [formatXKK, BitVec.getElem_and, BitVec.getElem_append]
  rcases j with _ | _ | _ | _ | _ | _ | _ | _ | _ | _ | _ | _ | _ | _ | _ | _ | j <;> simp_all; omega

/-- The same for format `NNN`. -/
theorem formatNNN_mask_top (op : BitVec 4) (nnn : Addr12) : formatNNN op nnn &&& 0xF000 = op ++ (0 : BitVec 12) := by
  ext j hj
  simp only [formatNNN, BitVec.getElem_and, BitVec.getElem_append]
  rcases j with _ | _ | _ | _ | _ | _ | _ | _ | _ | _ | _ | _ | _ | _ | _ | _ | j <;> simp_all; omega

/-- The same for format `XYN`. -/
theorem formatXYN_mask_top (op : BitVec 4) (x y : Reg) (n : BitVec 4) :
    formatXYN op x y n &&& 0xF000 = op ++ (0 : BitVec 12) := by
  ext j hj
  simp only [formatXYN, BitVec.getElem_and, BitVec.getElem_append]
  rcases j with _ | _ | _ | _ | _ | _ | _ | _ | _ | _ | _ | _ | _ | _ | _ | _ | j <;> simp_all; omega

/-- Under the mask of the top and low digits a word of format `XYN` is those two digits. -/
theorem formatXYN_mask_ends (op : BitVec 4) (x y : Reg) (n : BitVec 4) :
    formatXYN op x y n &&& 0xF00F = op ++ (0 : BitVec 8) ++ n := by
  ext j hj
  simp only [formatXYN, BitVec.getElem_and, BitVec.getElem_append]
  rcases j with _ | _ | _ | _ | _ | _ | _ | _ | _ | _ | _ | _ | _ | _ | _ | _ | j <;> simp_all; omega

/-- Under the mask of all but `x` a word of format `XKK` is its opcode digit and its low byte. -/
theorem formatXKK_mask_sub (op : BitVec 4) (x : Reg) (kk : Byte) :
    formatXKK op x kk &&& 0xF0FF = op ++ (0 : BitVec 4) ++ kk := by
  ext j hj
  simp only [formatXKK, BitVec.getElem_and, BitVec.getElem_append]
  rcases j with _ | _ | _ | _ | _ | _ | _ | _ | _ | _ | _ | _ | _ | _ | _ | _ | j <;> simp_all; omega

/-- An operand of a field's own type is in the field's range. -/
@[simp] theorem inRange_reg (r : Reg) : Operand.inRange ⟨.reg, r⟩ = true := by
  simp [Operand.inRange, OperandKind.count]

@[simp] theorem inRange_byte (b : Byte) : Operand.inRange ⟨.byte, b.toNat⟩ = true :=
  decide_eq_true b.isLt

@[simp] theorem inRange_addr (a : Addr12) : Operand.inRange ⟨.addr, a.toNat⟩ = true :=
  decide_eq_true a.isLt

@[simp] theorem inRange_height (n : Nibble) : Operand.inRange ⟨.height, n.toNat⟩ = true :=
  decide_eq_true n.isLt

theorem cls : Statement .cls := ⟨rfl, rfl⟩

theorem ret : Statement .ret := ⟨rfl, rfl⟩

theorem jp (nnn : Addr12) : Statement (.jp nnn) :=
  ⟨by simp [Instr.wellFormed, Instr.operands], beq_iff_eq.mpr ((formatNNN_mask_top _ _).trans rfl)⟩

theorem call (nnn : Addr12) : Statement (.call nnn) :=
  ⟨by simp [Instr.wellFormed, Instr.operands], beq_iff_eq.mpr ((formatNNN_mask_top _ _).trans rfl)⟩

theorem seByte (x : Reg) (kk : Byte) : Statement (.seByte x kk) :=
  ⟨by simp [Instr.wellFormed, Instr.operands], beq_iff_eq.mpr ((formatXKK_mask_top _ _ _).trans rfl)⟩

theorem sneByte (x : Reg) (kk : Byte) : Statement (.sneByte x kk) :=
  ⟨by simp [Instr.wellFormed, Instr.operands], beq_iff_eq.mpr ((formatXKK_mask_top _ _ _).trans rfl)⟩

theorem seReg (x y : Reg) : Statement (.seReg x y) :=
  ⟨by simp [Instr.wellFormed, Instr.operands], beq_iff_eq.mpr ((formatXYN_mask_ends _ _ _ _).trans rfl)⟩

theorem ldByte (x : Reg) (kk : Byte) : Statement (.ldByte x kk) :=
  ⟨by simp [Instr.wellFormed, Instr.operands], beq_iff_eq.mpr ((formatXKK_mask_top _ _ _).trans rfl)⟩

theorem addByte (x : Reg) (kk : Byte) : Statement (.addByte x kk) :=
  ⟨by simp [Instr.wellFormed, Instr.operands], beq_iff_eq.mpr ((formatXKK_mask_top _ _ _).trans rfl)⟩

theorem ldReg (x y : Reg) : Statement (.ldReg x y) :=
  ⟨by simp [Instr.wellFormed, Instr.operands], beq_iff_eq.mpr ((formatXYN_mask_ends _ _ _ _).trans rfl)⟩

theorem orReg (x y : Reg) : Statement (.orReg x y) :=
  ⟨by simp [Instr.wellFormed, Instr.operands], beq_iff_eq.mpr ((formatXYN_mask_ends _ _ _ _).trans rfl)⟩

theorem andReg (x y : Reg) : Statement (.andReg x y) :=
  ⟨by simp [Instr.wellFormed, Instr.operands], beq_iff_eq.mpr ((formatXYN_mask_ends _ _ _ _).trans rfl)⟩

theorem xorReg (x y : Reg) : Statement (.xorReg x y) :=
  ⟨by simp [Instr.wellFormed, Instr.operands], beq_iff_eq.mpr ((formatXYN_mask_ends _ _ _ _).trans rfl)⟩

theorem addReg (x y : Reg) : Statement (.addReg x y) :=
  ⟨by simp [Instr.wellFormed, Instr.operands], beq_iff_eq.mpr ((formatXYN_mask_ends _ _ _ _).trans rfl)⟩

theorem subReg (x y : Reg) : Statement (.subReg x y) :=
  ⟨by simp [Instr.wellFormed, Instr.operands], beq_iff_eq.mpr ((formatXYN_mask_ends _ _ _ _).trans rfl)⟩

theorem shr (x y : Reg) : Statement (.shr x y) :=
  ⟨by simp [Instr.wellFormed, Instr.operands], beq_iff_eq.mpr ((formatXYN_mask_ends _ _ _ _).trans rfl)⟩

theorem subnReg (x y : Reg) : Statement (.subnReg x y) :=
  ⟨by simp [Instr.wellFormed, Instr.operands], beq_iff_eq.mpr ((formatXYN_mask_ends _ _ _ _).trans rfl)⟩

theorem shl (x y : Reg) : Statement (.shl x y) :=
  ⟨by simp [Instr.wellFormed, Instr.operands], beq_iff_eq.mpr ((formatXYN_mask_ends _ _ _ _).trans rfl)⟩

theorem sneReg (x y : Reg) : Statement (.sneReg x y) :=
  ⟨by simp [Instr.wellFormed, Instr.operands], beq_iff_eq.mpr ((formatXYN_mask_ends _ _ _ _).trans rfl)⟩

theorem ldI (nnn : Addr12) : Statement (.ldI nnn) :=
  ⟨by simp [Instr.wellFormed, Instr.operands], beq_iff_eq.mpr ((formatNNN_mask_top _ _).trans rfl)⟩

theorem jpV0 (nnn : Addr12) : Statement (.jpV0 nnn) :=
  ⟨by simp [Instr.wellFormed, Instr.operands], beq_iff_eq.mpr ((formatNNN_mask_top _ _).trans rfl)⟩

theorem rnd (x : Reg) (kk : Byte) : Statement (.rnd x kk) :=
  ⟨by simp [Instr.wellFormed, Instr.operands], beq_iff_eq.mpr ((formatXKK_mask_top _ _ _).trans rfl)⟩

theorem drw (x y : Reg) (n : Nibble) : Statement (.drw x y n) :=
  ⟨by simp [Instr.wellFormed, Instr.operands], beq_iff_eq.mpr ((formatXYN_mask_top _ _ _ _).trans rfl)⟩

theorem skp (x : Reg) : Statement (.skp x) :=
  ⟨by simp [Instr.wellFormed, Instr.operands], beq_iff_eq.mpr ((formatXKK_mask_sub _ _ _).trans rfl)⟩

theorem sknp (x : Reg) : Statement (.sknp x) :=
  ⟨by simp [Instr.wellFormed, Instr.operands], beq_iff_eq.mpr ((formatXKK_mask_sub _ _ _).trans rfl)⟩

theorem ldVxDt (x : Reg) : Statement (.ldVxDt x) :=
  ⟨by simp [Instr.wellFormed, Instr.operands], beq_iff_eq.mpr ((formatXKK_mask_sub _ _ _).trans rfl)⟩

theorem ldVxK (x : Reg) : Statement (.ldVxK x) :=
  ⟨by simp [Instr.wellFormed, Instr.operands], beq_iff_eq.mpr ((formatXKK_mask_sub _ _ _).trans rfl)⟩

theorem ldDtVx (x : Reg) : Statement (.ldDtVx x) :=
  ⟨by simp [Instr.wellFormed, Instr.operands], beq_iff_eq.mpr ((formatXKK_mask_sub _ _ _).trans rfl)⟩

theorem ldStVx (x : Reg) : Statement (.ldStVx x) :=
  ⟨by simp [Instr.wellFormed, Instr.operands], beq_iff_eq.mpr ((formatXKK_mask_sub _ _ _).trans rfl)⟩

theorem addIVx (x : Reg) : Statement (.addIVx x) :=
  ⟨by simp [Instr.wellFormed, Instr.operands], beq_iff_eq.mpr ((formatXKK_mask_sub _ _ _).trans rfl)⟩

theorem ldFVx (x : Reg) : Statement (.ldFVx x) :=
  ⟨by simp [Instr.wellFormed, Instr.operands], beq_iff_eq.mpr ((formatXKK_mask_sub _ _ _).trans rfl)⟩

theorem ldBVx (x : Reg) : Statement (.ldBVx x) :=
  ⟨by simp [Instr.wellFormed, Instr.operands], beq_iff_eq.mpr ((formatXKK_mask_sub _ _ _).trans rfl)⟩

theorem storeRegs (x : Reg) : Statement (.storeRegs x) :=
  ⟨by simp [Instr.wellFormed, Instr.operands], beq_iff_eq.mpr ((formatXKK_mask_sub _ _ _).trans rfl)⟩

theorem loadRegs (x : Reg) : Statement (.loadRegs x) :=
  ⟨by simp [Instr.wellFormed, Instr.operands], beq_iff_eq.mpr ((formatXKK_mask_sub _ _ _).trans rfl)⟩

end Sys2Proof.Laws.TableRow
end

