-- ==== Sys2Proof/Tests/Slice0.lean ====
section
/-! SUPPORT. The model's own tests: the range checks, decoding, one step per instruction, and a state that meets the
hypotheses of each statement. Expected results are those of spec/95_test_vectors.md; each test names its section and row. -/

namespace Sys2Proof.Tests

open Sys2Proof Sys2Proof.Machine

/-! ## Helpers -/

/-- The reset state with some registers set. -/
def regs (l : List (Reg × Byte)) : State := l.foldl (fun s p => setV s p.1 p.2) State.reset

/-- The state with bytes stored at an address. -/
def poke (s : State) (a : Nat) (bytes : List Byte) : State := { s with mem := memWriteBytes s.mem a bytes }

/-- The state with one key held. -/
def hold (k : Fin 16) (s : State) : State := { s with key := s.key.set k true }

/-- The state with one cell turned on. -/
def lit (x y : Nat) (s : State) : State := { s with fb := toggle s.fb y x }

/-- The state one cycle leaves when the word `w` stands at `PC`. -/
def cycle (w : Nat) (s : State) : Option State :=
  match step (s.withFetchWord 16 w) with
  | .next t => some t
  | .fault _ => none
  | .refused _ => none

/-- `PC` after the cycle. -/
def pcAfter (w : Nat) (s : State) : Option Word := (cycle w s).map fun t => t.pc

/-- A register and `VF` after the cycle. -/
def regAfter (w : Nat) (x : Reg) (s : State) : Option (Byte × Byte) := (cycle w s).map fun t => (getV t x, getV t VF)

/-- `I` after the cycle. -/
def indexAfter (w : Nat) (s : State) : Option Word := (cycle w s).map fun t => t.index

/-- Some bytes of memory, and `I`, after the cycle. -/
def bytesAfter (w a n : Nat) (s : State) : Option (List Byte × Word) :=
  (cycle w s).map fun t => (memReadBytes t.mem a n, t.index)

/-- Some cells, given as (x, y), and `VF`, after the cycle. -/
def cellsAfter (w : Nat) (cells : List (Nat × Nat)) (s : State) : Option (List Bool × Byte) :=
  (cycle w s).map fun t => (cells.map fun p => cell t.fb p.2 p.1, getV t VF)

/-! ## Ill-formed operands are refused (R92, R93) -/

theorem test_reg_range : Operand.inRange ⟨.reg, 15⟩ = true ∧ Operand.inRange ⟨.reg, 16⟩ = false := by decide
theorem test_byte_range : Operand.inRange ⟨.byte, 255⟩ = true ∧ Operand.inRange ⟨.byte, 256⟩ = false := by decide
theorem test_addr_range : Operand.inRange ⟨.addr, 4095⟩ = true ∧ Operand.inRange ⟨.addr, 4096⟩ = false := by decide
theorem test_height_range : Operand.inRange ⟨.height, 15⟩ = true ∧ Operand.inRange ⟨.height, 16⟩ = false := by decide
theorem test_table_word : tableWord? 16 65536 = none ∧ tableWord? 17 1 = none ∧ tableWord? 8 256 = none := by decide

/-! ## Decoding: the words of 95_test_vectors.md section 2.1 -/

theorem test_decode_cls : decodeTableWord 16 0x00E0 = some .cls := by decide
theorem test_decode_ret : decodeTableWord 16 0x00EE = some .ret := by decide
theorem test_decode_jp : decodeTableWord 16 0x1ABC = some (.jp 0xABC) := by decide
theorem test_decode_call : decodeTableWord 16 0x2300 = some (.call 0x300) := by decide
theorem test_decode_seByte : decodeTableWord 16 0x3A7F = some (.seByte 0xA 0x7F) := by decide
theorem test_decode_sneByte : decodeTableWord 16 0x4B01 = some (.sneByte 0xB 0x01) := by decide
theorem test_decode_seReg : decodeTableWord 16 0x5CD0 = some (.seReg 0xC 0xD) := by decide
theorem test_decode_ldByte : decodeTableWord 16 0x6E42 = some (.ldByte 0xE 0x42) := by decide
theorem test_decode_addByte : decodeTableWord 16 0x7FFF = some (.addByte 0xF 0xFF) := by decide
theorem test_decode_ldReg : decodeTableWord 16 0x8AB0 = some (.ldReg 0xA 0xB) := by decide
theorem test_decode_orReg : decodeTableWord 16 0x8AB1 = some (.orReg 0xA 0xB) := by decide
theorem test_decode_andReg : decodeTableWord 16 0x8AB2 = some (.andReg 0xA 0xB) := by decide
theorem test_decode_xorReg : decodeTableWord 16 0x8AB3 = some (.xorReg 0xA 0xB) := by decide
theorem test_decode_addReg : decodeTableWord 16 0x8AB4 = some (.addReg 0xA 0xB) := by decide
theorem test_decode_subReg : decodeTableWord 16 0x8AB5 = some (.subReg 0xA 0xB) := by decide
theorem test_decode_shr : decodeTableWord 16 0x8AB6 = some (.shr 0xA 0xB) := by decide
theorem test_decode_subnReg : decodeTableWord 16 0x8AB7 = some (.subnReg 0xA 0xB) := by decide
theorem test_decode_shl : decodeTableWord 16 0x8ABE = some (.shl 0xA 0xB) := by decide
theorem test_decode_sneReg : decodeTableWord 16 0x9120 = some (.sneReg 0x1 0x2) := by decide
theorem test_decode_ldI : decodeTableWord 16 0xA2F0 = some (.ldI 0x2F0) := by decide
theorem test_decode_jpV0 : decodeTableWord 16 0xB300 = some (.jpV0 0x300) := by decide
theorem test_decode_rnd : decodeTableWord 16 0xC30F = some (.rnd 0x3 0x0F) := by decide
theorem test_decode_drw : decodeTableWord 16 0xD125 = some (.drw 0x1 0x2 0x5) := by decide
theorem test_decode_skp : decodeTableWord 16 0xE29E = some (.skp 0x2) := by decide
theorem test_decode_sknp : decodeTableWord 16 0xE2A1 = some (.sknp 0x2) := by decide
theorem test_decode_ldVxDt : decodeTableWord 16 0xF307 = some (.ldVxDt 0x3) := by decide
theorem test_decode_ldVxK : decodeTableWord 16 0xF50A = some (.ldVxK 0x5) := by decide
theorem test_decode_ldDtVx : decodeTableWord 16 0xF315 = some (.ldDtVx 0x3) := by decide
theorem test_decode_ldStVx : decodeTableWord 16 0xF318 = some (.ldStVx 0x3) := by decide
theorem test_decode_addIVx : decodeTableWord 16 0xF21E = some (.addIVx 0x2) := by decide
theorem test_decode_ldFVx : decodeTableWord 16 0xF029 = some (.ldFVx 0x0) := by decide
theorem test_decode_ldBVx : decodeTableWord 16 0xF033 = some (.ldBVx 0x0) := by decide
theorem test_decode_storeRegs : decodeTableWord 16 0xF255 = some (.storeRegs 0x2) := by decide
theorem test_decode_loadRegs : decodeTableWord 16 0xF265 = some (.loadRegs 0x2) := by decide

/-- The unrecognised words of section 2.1, in two halves; every set of R98 has some. -/
theorem test_unrecognised :
    ∀ w ∈ [0x0000, 0x0123, 0x00E1, 0x00EF, 0x01E0, 0x0FEE, 0x00FF, 0x5121, 0x512F, 0x8AB8, 0x8AB9, 0x8ABA, 0x8ABB, 0x8ABC,
      0x8ABD], decodeTableWord 16 w = none := by decide
theorem test_unrecognised_rest :
    ∀ w ∈ [0x8ABF, 0x9121, 0x912F, 0xE29F, 0xE2A0, 0xE200, 0xE2FF, 0xF000, 0xF0FF, 0xF308, 0xF31F, 0xF330, 0xF375, 0xF385,
      0xFFFF], decodeTableWord 16 w = none := by decide
theorem test_reject_named : decode [0x51, 0x21, 0x00] = .error (.unrecognised 0x5121) := rfl
theorem test_reject_truncated : decode [0x51] = .error .truncated := rfl

/-! ## Reset (R40, section 1 S1) -/

theorem test_reset_memory : State.reset.mem.wf = true := by decide
theorem test_reset_font_first : memReadBytes State.reset.mem 0x000 5 = [0xF0, 0x90, 0x90, 0x90, 0xF0] := by decide
theorem test_reset_font_last : memReadBytes State.reset.mem 0x04B 6 = [0xF0, 0x80, 0xF0, 0x80, 0x80, 0x00] := by decide
theorem test_reset_is_reset : hostReset State.reset = State.reset := by decide +kernel

/-! ## Control flow (section 2.2) -/

/-- Row 3. -/
theorem test_jp_odd : pcAfter 0x1203 State.reset = some 0x0203 := by decide
/-- Rows 4 and 5. -/
theorem test_call : (cycle 0x2300 State.reset).map (fun t => (t.stack, t.pc)) = some ([0x0202], 0x0300) := by decide
theorem test_call_high :
    (cycle 0x2300 { State.reset with pc := 0x0FFE }).map (fun t => (t.stack, t.pc)) = some ([0x1000], 0x0300) := by decide
/-- Row 6; section 2.8 row 1 for the empty stack. -/
theorem test_ret :
    (cycle 0x00EE { State.reset with pc := 0x0300, stack := [0x0456, 0x0202] }).map (fun t => (t.stack, t.pc)) =
      some ([0x0202], 0x0456) := by decide
theorem test_ret_empty :
    (cycle 0x00EE { State.reset with pc := 0x0300 }).map (fun t => (t.status, t.pc)) =
      some (.fatal .stackUnderflow, 0x0300) := by decide
/-- Rows 8 and 22. -/
theorem test_seByte_skips : pcAfter 0x3310 (regs [(3, 0x10)]) = some 0x0204 := by decide
theorem test_seByte_high : pcAfter 0x3300 { State.reset with pc := 0x0FFE } = some 0x1002 := by decide
/-- Rows 10 and 11. -/
theorem test_sneByte_stays : pcAfter 0x4310 (regs [(3, 0x10)]) = some 0x0202 := by decide
theorem test_sneByte_skips : pcAfter 0x4310 (regs [(3, 0x11)]) = some 0x0204 := by decide
/-- Rows 12 and 13. -/
theorem test_seReg_skips : pcAfter 0x5120 (regs [(1, 0x07), (2, 0x07)]) = some 0x0204 := by decide
theorem test_seReg_stays : pcAfter 0x5120 (regs [(1, 0x07), (2, 0x08)]) = some 0x0202 := by decide
/-- Rows 15 and 16. -/
theorem test_sneReg_skips : pcAfter 0x9120 (regs [(1, 0x07), (2, 0x08)]) = some 0x0204 := by decide
theorem test_sneReg_stays : pcAfter 0x9120 (regs [(1, 0x07), (2, 0x07)]) = some 0x0202 := by decide
/-- Rows 19 and 20. -/
theorem test_jpV0_wide : pcAfter 0xBFFF (regs [(0, 0xFF)]) = some 0x10FE := by decide
theorem test_jpV0_not_v3 : pcAfter 0xB300 (regs [(3, 0x55)]) = some 0x0300 := by decide
/-- Row 24: the two bytes of one word from 0xFFF and 0x000. -/
theorem test_fetch_wraps :
    (match step (poke (poke { State.reset with pc := 0x0FFF } 0xFFF [0x61]) 0x000 [0x77]) with
      | .next t => some (getV t 1, t.pc)
      | .fault _ => none
      | .refused _ => none) = some (0x77, 0x1001) := by decide
/-- Section 2.8 rows 7 and 8. -/
theorem test_unknown_partial_skip :
    (cycle 0x5121 (regs [(1, 0x07), (2, 0x07)])).map (fun t => (t.pc, t.diag)) = some (0x0202, [⟨0x5121, 0x0200⟩]) := by decide
theorem test_unknown_partial_cls :
    (cycle 0x01E0 (lit 1 1 State.reset)).map (fun t => (cell t.fb 1 1, t.pc)) = some (true, 0x0202) := by decide

/-! ## Load and arithmetic (section 2.3) -/

/-- Row 1. -/
theorem test_ldByte_VF : regAfter 0x6FAB 15 State.reset = some (0xAB, 0xAB) := by decide
/-- Rows 2 and 3. -/
theorem test_addByte_no_flag : regAfter 0x7101 1 (regs [(1, 0xFF)]) = some (0x00, 0x00) := by decide
theorem test_addByte_VF : regAfter 0x7FFF 15 (regs [(15, 0x01)]) = some (0x00, 0x00) := by decide
/-- Row 4. -/
theorem test_ldReg : regAfter 0x8120 1 (regs [(2, 0x77), (15, 0x01)]) = some (0x77, 0x01) := by decide
/-- Rows 18 and 22. -/
theorem test_or : regAfter 0x8121 1 (regs [(1, 0xF0), (2, 0x0F), (15, 0x01)]) = some (0xFF, 0x00) := by decide
theorem test_or_VF : regAfter 0x8F21 15 (regs [(15, 0xF0), (2, 0x0F)]) = some (0x00, 0x00) := by decide
/-- Row 19. -/
theorem test_and : regAfter 0x8122 1 (regs [(1, 0xF0), (2, 0x3C), (15, 0x01)]) = some (0x30, 0x00) := by decide
/-- Rows 20 and 21. -/
theorem test_xor : regAfter 0x8123 1 (regs [(1, 0xF0), (2, 0x3C), (15, 0x01)]) = some (0xCC, 0x00) := by decide
theorem test_xor_self : regAfter 0x8113 1 (regs [(1, 0x5A), (15, 0x01)]) = some (0x00, 0x00) := by decide
/-- Rows 8 and 10. -/
theorem test_addReg_no_carry : regAfter 0x8124 1 (regs [(1, 0x80), (2, 0x7F)]) = some (0xFF, 0x00) := by decide
theorem test_addReg_VF : regAfter 0x8F14 15 (regs [(15, 0xFF), (1, 0x01)]) = some (0x01, 0x01) := by decide
/-- Rows 13 and 15. -/
theorem test_sub_borrow : regAfter 0x8125 1 (regs [(1, 0x05), (2, 0x09)]) = some (0xFC, 0x00) := by decide
theorem test_sub_equal : regAfter 0x8125 1 (regs [(1, 0x07), (2, 0x07)]) = some (0x00, 0x01) := by decide
/-- Rows 25 and 26. -/
theorem test_subn_borrow : regAfter 0x8127 1 (regs [(1, 0x09), (2, 0x05)]) = some (0xFC, 0x00) := by decide
theorem test_subn_equal : regAfter 0x8127 1 (regs [(1, 0x07), (2, 0x07)]) = some (0x00, 0x00) := by decide

/-! ## Shifts and random (section 2.4) -/

/-- Row 1, the two modes. -/
theorem test_shr_legacy :
    regAfter 0x8126 1 { regs [(1, 0x05), (2, 0x08)] with mode := .legacy } = some (0x04, 0x00) := by decide
theorem test_shr_extended : regAfter 0x8126 1 (regs [(1, 0x05), (2, 0x08)]) = some (0x02, 0x01) := by decide
/-- Rows 7 and 6. -/
theorem test_shl_legacy :
    regAfter 0x812E 1 { regs [(1, 0x40), (2, 0xFF)] with mode := .legacy } = some (0xFE, 0x01) := by decide
theorem test_shl_extended : regAfter 0x812E 1 (regs [(1, 0x81), (2, 0x40)]) = some (0x02, 0x01) := by decide
/-- Rows 11 and 13: only the masked bits are known, whatever the draw. -/
theorem test_rnd_zero : (cycle 0xC100 (regs [(1, 0x55)])).map (fun t => t.draws) = some 1 := by decide
theorem test_rnd_masked : ∃ t, cycle 0xC1F0 State.reset = some t ∧ getV t 1 &&& 0x0F = 0 := by
  refine ⟨_, rfl, ?_⟩
  change Config.drawByte 0 &&& 0xF0 &&& 0x0F = 0
  rw [BitVec.and_assoc]
  exact BitVec.and_zero

/-! ## Index and memory (section 2.5) -/

/-- Row 2. -/
theorem test_ldI : indexAfter 0xAFFF State.reset = some 0x0FFF := by decide
/-- Rows 3 and 4. -/
theorem test_addI_past_memory : indexAfter 0xF11E { regs [(1, 0x01)] with index := 0x0FFF } = some 0x1000 := by decide
theorem test_addI_wraps : indexAfter 0xF11E { regs [(1, 0x02)] with index := 0xFFFF } = some 0x0001 := by decide
/-- Rows 6 and 9. -/
theorem test_ldF : indexAfter 0xF129 (regs [(1, 0x0A)]) = some 0x0032 := by decide
theorem test_ldF_not_masked : indexAfter 0xF129 (regs [(1, 0xFF)]) = some 0x04FB := by decide
/-- Rows 14 and 17. -/
theorem test_ldB : bytesAfter 0xF133 0x300 3 { regs [(1, 0xEA)] with index := 0x300 } = some ([2, 3, 4], 0x0300) := by decide
theorem test_ldB_wraps :
    bytesAfter 0xF133 0xFFF 3 { regs [(1, 0x7B)] with index := 0x1FFF } = some ([1, 2, 3], 0x1FFF) := by decide
/-- Rows 19 and 21. -/
theorem test_storeRegs :
    bytesAfter 0xF255 0x400 4 { regs [(0, 0x11), (1, 0x22), (2, 0x33), (3, 0x44)] with index := 0x400 } =
      some ([0x11, 0x22, 0x33, 0x00], 0x0403) := by decide
theorem test_storeRegs_wraps :
    bytesAfter 0xF255 0xFFF 3 { regs [(0, 1), (1, 2), (2, 3)] with index := 0xFFFF } = some ([1, 2, 3], 0x0002) := by decide
/-- Rows 23 and 24. -/
theorem test_loadRegs :
    (cycle 0xF265 State.reset).map (fun t => (getV t 0, getV t 2, getV t 3, t.index)) = some (0xF0, 0x90, 0x00, 0x0003) := by
  decide
theorem test_loadRegs_wraps :
    (cycle 0xF165 (poke { State.reset with index := 0x0FFF } 0xFFF [0xEE])).map (fun t => (getV t 0, getV t 1, t.index)) =
      some (0xEE, 0xF0, 0x1001) := by decide

/-! ## Display (section 2.6) -/

/-- Row 1: clipped at the right edge. -/
theorem test_drw_clips :
    cellsAfter 0xD121 [(59, 0), (60, 0), (63, 0), (0, 0), (3, 0), (0, 1)]
      (poke { regs [(1, 0x3C)] with index := 0x300 } 0x300 [0xFF]) =
      some ([false, true, true, false, false, false], 0x00) := by decide
/-- Row 8: a collision. -/
theorem test_drw_collides :
    cellsAfter 0xD121 [(8, 4), (9, 4), (10, 4)]
      (lit 8 4 (lit 9 4 (poke { regs [(1, 0x08), (2, 0x04)] with index := 0x300 } 0x300 [0xA0]))) =
      some ([false, true, true], 0x01) := by decide
/-- Row 20. -/
theorem test_cls :
    (cycle 0x00E0 (lit 1 1 { regs [(15, 0x01)] with dirty := false })).map (fun t => (cell t.fb 1 1, t.dirty, getV t VF)) =
      some (false, true, 0x01) := by decide

/-! ## Timers and keys (section 2.7) -/

/-- Row 2: the register gets `DT` as it was before the tick. -/
theorem test_ldVxDt_before_tick :
    (cycle 0xF307 { State.reset with dt := 0x2A, cps := 60 }).map (fun t => (getV t 3, t.dt)) = some (0x2A, 0x29) := by
  decide +kernel
/-- Rows 3 and 4. -/
theorem test_ldDtVx_then_tick :
    (cycle 0xF315 { regs [(3, 0x0A)] with cps := 60 }).map (fun t => (t.dt, t.acc)) = some (0x09, 0) := by decide +kernel
theorem test_ldDtVx_floor : (cycle 0xF315 { State.reset with cps := 60 }).map (fun t => t.dt) = some 0x00 := by decide +kernel
/-- Rows 5 and 6: the threshold is reached at exactly 1. -/
theorem test_ldStVx_tick :
    (cycle 0xF318 { regs [(3, 0x05)] with acc := 9 / 10 }).map (fun t => (t.st, t.acc)) = some (0x04, 0) := by decide +kernel
theorem test_ldStVx_no_tick :
    (cycle 0xF318 { regs [(3, 0x05)] with acc := 4 / 5 }).map (fun t => (t.st, t.acc)) = some (0x05, 9 / 10) := by
  decide +kernel
/-- Rows 8 and 9. -/
theorem test_skp_stays : pcAfter 0xE29E (regs [(2, 0x0A)]) = some 0x0202 := by decide
theorem test_skp_mod_16 : pcAfter 0xE29E (hold 10 (regs [(2, 0x1A)])) = some 0x0204 := by decide
/-- Rows 12 and 13. -/
theorem test_sknp_skips : pcAfter 0xE2A1 (regs [(2, 0x0A)]) = some 0x0204 := by decide
theorem test_sknp_mod_16 : pcAfter 0xE2A1 (hold 10 (regs [(2, 0x2A)])) = some 0x0202 := by decide
/-- Rows 14 and 15. -/
theorem test_ldVxK_least : (cycle 0xF50A (hold 7 (hold 3 State.reset))).map (fun t => (getV t 5, t.pc)) = some (0x03, 0x0202) := by
  decide
theorem test_ldVxK_waits :
    (cycle 0xF50A (regs [(5, 0x99)])).map (fun t => (getV t 5, t.pc, t.acc)) = some (0x99, 0x0200, 1 / 10) := by decide +kernel

/-! ## Host operations (section 2.8) -/

/-- Rows 15 and 16. -/
theorem test_set_key : (hostOp (.setKey 15 true) State.reset).1.key[15] = true ∧
    (hostOp (.setKey 16 true) State.reset).2 = .keyCodeOutOfRange 16 := by decide
/-- Row 17. -/
theorem test_get_cell : (hostOp (.getDisplayCell 63 31) (lit 63 31 State.reset)).2 = .bit true ∧
    (hostOp (.getDisplayCell 62 31) (lit 63 31 State.reset)).2 = .bit false := by decide
/-- Row 11. -/
theorem test_load_program : memReadBytes (hostOp (.loadProgram [0x12, 0x00]) (regs [(1, 1)])).1.mem 0x200 2 = [0x12, 0x00] := by
  decide +kernel

/-! ## A state that meets the hypotheses of each statement

`State.reset` fetches 0x0000, an unrecognised word; `atPc w` fetches `w`. -/

/-- The reset state with the word `w` at `PC`. -/
def atPc (w : Nat) : State := State.reset.withFetchWord 16 w

/-- The reset state with another status. -/
def halted (e : FatalEvent) : State := { State.reset with status := .fatal e }

/-- A state whose stack holds `n` entries. -/
def stacked (n : Nat) (s : State) : State := { s with stack := List.replicate n 0x0300 }

theorem witness_EncodeOfDecodeIsTheWord : decodeWord 0x8ABE = .ok (.shl 0xA 0xB) := rfl

theorem witness_DecodingFollowsMatchAndMask :
    decodeWord 0xF265 = .ok (.loadRegs 2) ∧ matchesRow (.loadRegs 0) 0xF265 = true ∧ matchesRow (.loadRegs 7) 0xF265 = true :=
  ⟨rfl, by decide, by decide⟩
theorem witness_DecodingFollowsMatchAndMask_no_row : ∀ i, matchesRow i 0x0000 = false := fun i => by
  cases i <;> simp [matchesRow, matchBits, maskBits]

theorem witness_UnrecognisedWordsAreTheSixSets :
    opField 0x00E1 = 0 ∧ nField 0x5121 ≠ 0 ∧ nField 0x8AB8 = 8 ∧ nField 0x9121 ≠ 0 ∧ opField 0xE29F = 0xE ∧
    opField 0xF0FF = 0xF := by decide

theorem witness_StepRunsTheDecodedInstruction :
    (atPc 0x00EE).status = .running ∧ decode (memReadBytes (atPc 0x00EE).mem (atPc 0x00EE).pc.toNat 2) = .ok (.ret, []) ∧
    ∃ t, exec .ret { atPc 0x00EE with pc := (atPc 0x00EE).pc + 2 } = .next t ∧ t.status = .fatal .stackUnderflow :=
  ⟨rfl, rfl, _, rfl, rfl⟩
theorem witness_StepRunsTheDecodedInstruction_completes :
    (atPc 0x6142).status = .running ∧
    decode (memReadBytes (atPc 0x6142).mem (atPc 0x6142).pc.toNat 2) = .ok (.ldByte 1 0x42, []) ∧
    ∃ t, exec (.ldByte 1 0x42) { atPc 0x6142 with pc := (atPc 0x6142).pc + 2 } = .next t ∧ t.status = .running :=
  ⟨rfl, rfl, _, rfl, rfl⟩

theorem witness_UnrecognisedWordOnlyAdvances :
    State.reset.status = .running ∧ decodeWord (fetchWord State.reset) = .error (.unrecognised 0x0000) := ⟨rfl, rfl⟩

theorem witness_HaltedCoreDoesNothing : (halted .stackOverflow).status = .fatal .stackOverflow := rfl

/-- The four ends of a cycle: underflow, overflow, a record, none of them. -/
theorem witness_EachCycleHasAtMostOneEvent :
    ((atPc 0x00EE).status = .running ∧ ∃ t, step (atPc 0x00EE) = .next t) ∧
    ((stacked 16 (atPc 0x2300)).status = .running ∧ ∃ t, step (stacked 16 (atPc 0x2300)) = .next t) ∧
    (State.reset.status = .running ∧ ∃ t, step State.reset = .next t) ∧
    ((atPc 0x6142).status = .running ∧ ∃ t, step (atPc 0x6142) = .next t) :=
  ⟨⟨rfl, _, rfl⟩, ⟨rfl, _, rfl⟩, ⟨rfl, _, rfl⟩, ⟨rfl, _, rfl⟩⟩

theorem witness_OnlyResetLeavesTheHaltedState :
    (halted .stackUnderflow).status = .fatal .stackUnderflow ∧ HostOp.clearDirty ≠ .reset ∧
    (∀ bytes, HostOp.clearDirty ≠ .loadProgram bytes) ∧ (List.replicate 3584 (0 : Byte)).length ≤ 3584 ∧
    3584 < (List.replicate 3585 (0 : Byte)).length := by
  refine ⟨rfl, by decide, nofun, ?_, ?_⟩ <;> rw [List.length_replicate]
  decide

theorem witness_ReturnPopsOrHalts :
    (stacked 1 State.reset).stack = 0x0300 :: [] ∧ (atPc 0x00EE).status = .running ∧
    decodeWord (fetchWord (atPc 0x00EE)) = .ok .ret ∧ (atPc 0x00EE).stack = [] := ⟨rfl, rfl, rfl, rfl⟩

/-- The reset state of a core whose stack is endless. -/
def endless : State := { State.reset with cfg := ⟨none, recommendedFont⟩ }

/-- One entry below the depth, an infinite depth, and a full stack. -/
theorem witness_CallPushesOrHalts :
    (∀ d, (stacked 15 State.reset).cfg.stackDepth = some d → (stacked 15 State.reset).stack.length < d) ∧
    (∀ d, endless.cfg.stackDepth = some d → endless.stack.length < d) ∧
    (stacked 16 (atPc 0x2300)).status = .running ∧
    decodeWord (fetchWord (stacked 16 (atPc 0x2300))) = .ok (.call 0x300) ∧
    (stacked 16 (atPc 0x2300)).cfg.stackDepth = some (stacked 16 (atPc 0x2300)).stack.length :=
  ⟨fun d h => by cases h; decide, fun d h => (nomatch (h : none = some d)), rfl, rfl, rfl⟩

theorem witness_KeySkipsConsultTheLatch :
    (15 : Fin 16).val = (getV (regs [(2, 0xFF)]) 2).toNat % 16 ∧ (0 : Fin 16).val = (getV (regs [(2, 0x10)]) 2).toNat % 16 := by
  decide

theorem witness_WaitForKeyTakesTheLeastKeyOrRepeats :
    ((hold 7 (hold 3 State.reset)).key[(3 : Fin 16)] = true ∧
      ∀ j : Fin 16, j < 3 → (hold 7 (hold 3 State.reset)).key[j] = false) ∧
    (atPc 0xF50A).status = .running ∧ decodeWord (fetchWord (atPc 0xF50A)) = .ok (.ldVxK 5) ∧
    ∀ j : Fin 16, (atPc 0xF50A).key[j] = false :=
  ⟨by decide, rfl, rfl, by decide⟩

theorem witness_ShiftsFollowTheMode :
    (8 : Byte) = (if ({ regs [(1, 5), (2, 8)] with mode := .legacy } : State).mode = .legacy
      then getV (regs [(1, 5), (2, 8)]) 2 else getV (regs [(1, 5), (2, 8)]) 1) ∧
    (5 : Byte) = (if (regs [(1, 5), (2, 8)]).mode = .legacy
      then getV (regs [(1, 5), (2, 8)]) 2 else getV (regs [(1, 5), (2, 8)]) 1) := by decide

theorem witness_ShiftRightForksOnMode :
    (1 : Reg) ≠ VF ∧ getV (regs [(1, 2), (2, 3)]) 1 ≠ getV (regs [(1, 2), (2, 3)]) 2 ∧
    (∃ t, exec (.shr 1 2) { regs [(1, 2), (2, 3)] with mode := .legacy } = .next t) ∧
    ∃ u, exec (.shr 1 2) { regs [(1, 2), (2, 3)] with mode := .extended } = .next u :=
  ⟨by decide, by decide, ⟨_, rfl⟩, ⟨_, rfl⟩⟩

/-- An address off the stored bytes, where they wrap over the top of memory. -/
theorem witness_BcdStoresThreeDigits : ∀ k < 3, 1 % 4096 ≠ (0xFFE + k) % 4096 := by decide
theorem witness_BlockStoreWritesAndAdvances : ∀ k ≤ (15 : Reg).val, 8 % 4096 ≠ (0xFF8 + k) % 4096 := by decide

theorem witness_StoresAreSeenByTheNextFetch :
    (1 : Reg).val = (0 : Reg).val + 1 ∧ (1 : Reg) ≤ 1 ∧
    ({ State.reset with pc := 0x020A, index := 0x120A } : State).pc.toNat % 4096 =
      (({ State.reset with pc := 0x020A, index := 0x120A } : State).index.toNat + (0 : Reg).val) % 4096 := by decide

/-- The corner cells; a sprite row inside the sprite and one past it. -/
theorem witness_ClearScreenTurnsEveryCellOff : (0 < 32 ∧ 0 < 64) ∧ (31 < 32 ∧ 63 < 64) := by decide
theorem witness_SpriteIsXoredAndClipped :
    (31 < 32 ∧ 63 < 64) ∧ (60 % 64 ≤ 63 ∧ 63 < 60 % 64 + 8 ∧ 63 % 32 ≤ 31 ∧ 31 < 63 % 32 + [(0xFF : Byte), 0xFF].length) ∧
    ¬(60 % 64 ≤ 59) := by decide

/-- Glyph 0 over a cell that is on collides; over a blank screen it does not. -/
theorem witness_DrawWritesCellsFlagAndDirty :
    (∃ t, exec (.drw 0 1 5) (lit 0 0 State.reset) = .next t ∧ cell (lit 0 0 State.reset).fb 0 0 = true ∧
      cell t.fb 0 0 = false) ∧
    (∃ t, exec (.drw 0 1 5) State.reset = .next t ∧
      ∀ py px, py < 32 → px < 64 → cell State.reset.fb py px = true → cell t.fb py px = true) ∧
    (3 : Reg) ≠ VF :=
  ⟨⟨_, rfl, by decide, by decide⟩, ⟨_, rfl, fun py px _ _ h => absurd ((cell_blankFrame py px).symm.trans h) (by decide)⟩,
    by decide⟩

/-- The first and last bytes of the font and of the rest of memory. -/
theorem witness_ResetLeavesTheDecidedState : 0 < 80 ∧ 79 < 80 ∧ (80 ≤ 80 ∧ 80 < 4096) ∧ (80 ≤ 4095 ∧ 4095 < 4096) := by decide

theorem witness_TimerWritesPrecedeTheTick :
    (atPc 0xF315).status = .running ∧ decodeWord (fetchWord (atPc 0xF315)) = .ok (.ldDtVx 3) ∧
    (atPc 0xF318).status = .running ∧ decodeWord (fetchWord (atPc 0xF318)) = .ok (.ldStVx 3) := ⟨rfl, rfl, rfl, rfl⟩

/-- The threshold itself, and a state below it. -/
theorem witness_TimerStepTicksOnce :
    1 ≤ ({ State.reset with acc := 9 / 10 } : State).acc + 60 / State.reset.cps ∧
    State.reset.acc + 60 / State.reset.cps < 1 := by decide +kernel

theorem witness_TicksAreTheFloorOfTheRate :
    State.reset.AccBounded ∧ ({ State.reset with cps := 60 } : State).AccBounded := by
  refine ⟨⟨?_, ?_, ?_⟩, ⟨?_, ?_, ?_⟩⟩ <;> decide +kernel

theorem witness_SlowRatesTickEveryCycle :
    0 < ({ State.reset with cps := 30 } : State).cps ∧ ({ State.reset with cps := 30 } : State).cps < 60 ∧
    0 ≤ State.reset.acc := by decide +kernel

theorem witness_ConstructionIsLegal :
    ∃ s, hostConstruct ⟨none, recommendedFont⟩ .legacy (some 1) = .ok s := ⟨_, by simp [hostConstruct]; rfl⟩

/-- A full stack and a listed byte of memory are legal. -/
theorem witness_StepKeepsTheStateLegal :
    (stacked 16 (atPc 0x6142)).Inv ∧ ∃ t, step (stacked 16 (atPc 0x6142)) = .next t := by
  refine ⟨⟨by decide, by decide, ?_, ?_⟩, _, rfl⟩ <;> decide +kernel

theorem witness_HostOperationsKeepTheStateLegal :
    State.reset.Inv ∧ ∃ s, Reachable s := by
  refine ⟨⟨by decide, by decide, ?_, ?_⟩, ?_⟩
  · decide +kernel
  · decide +kernel
  · obtain ⟨s, h⟩ := witness_ConstructionIsLegal
    exact ⟨s, .constructed _ _ _ s h⟩

theorem witness_StepKeepsTheAccumulatorBounded : State.reset.AccBounded ∧ ∃ t, step State.reset = .next t :=
  ⟨witness_TicksAreTheFloorOfTheRate.1, _, rfl⟩

/-- The parked programs of section 2.2 row 2 and of the last even address. -/
theorem witness_ParkedStaysParked :
    (atPc 0x1200).Parked ∧ (({ State.reset with pc := 0x0FFE } : State).withFetchWord 16 0x1FFE).Parked := by
  refine ⟨⟨rfl, ?_, ?_⟩, ⟨rfl, ?_, ?_⟩⟩ <;> decide

theorem witness_OnlyClsAndDrwTouchTheDisplay :
    (∃ t, exec .cls { State.reset with dirty := false } = .next t ∧ t.dirty ≠ false) ∧
    (∃ t, step State.reset = .next t) ∧ State.reset.dirty = true :=
  ⟨⟨_, rfl, by decide⟩, ⟨_, rfl⟩, rfl⟩

theorem witness_WhoWritesMemoryAndIndex :
    (∃ t, exec (.ldBVx 1) (regs [(1, 0x64)]) = .next t ∧ t.mem ≠ (regs [(1, 0x64)]).mem) ∧
    ∃ t, exec (.ldI 0x123) State.reset = .next t ∧ t.index ≠ State.reset.index :=
  ⟨⟨_, rfl, by decide⟩, ⟨_, rfl, by decide⟩⟩

theorem witness_WhoWritesStackStatusAndPc :
    (∃ t, exec (.call 0x300) State.reset = .next t ∧ t.stack ≠ State.reset.stack) ∧
    (∃ t, exec .ret State.reset = .next t ∧ t.status ≠ State.reset.status) ∧
    ∃ t, exec (.ldVxK 5) State.reset = .next t ∧ t.pc ≠ State.reset.pc :=
  ⟨⟨_, rfl, by decide⟩, ⟨_, rfl, by decide⟩, ⟨_, rfl, by decide⟩⟩

theorem witness_WhoWritesVF :
    (∃ t, exec (.orReg 1 2) (regs [(15, 1)]) = .next t ∧ getV t VF ≠ getV (regs [(15, 1)]) VF) ∧
    (∃ t, exec (.ldByte 15 0xAB) State.reset = .next t ∧ getV t VF ≠ getV State.reset VF) ∧
    ∃ t, exec (.ldVxDt 15) { State.reset with dt := 7 } = .next t ∧ getV t VF ≠ 0 :=
  ⟨⟨_, rfl, by decide⟩, ⟨_, rfl, by decide⟩, ⟨_, rfl, by decide⟩⟩

theorem witness_HostInputsAreNotWrittenByTheCore :
    (∃ t, exec (.ldDtVx 1) (regs [(1, 9)]) = .next t ∧ t.dt ≠ (regs [(1, 9)]).dt) ∧
    (∃ t, exec (.ldStVx 1) (regs [(1, 9)]) = .next t ∧ t.st ≠ (regs [(1, 9)]).st) ∧ ∃ t, step State.reset = .next t :=
  ⟨⟨_, rfl, by decide⟩, ⟨_, rfl, by decide⟩, ⟨_, rfl⟩⟩

theorem witness_ModeAltersOnlyTheShifts :
    (∀ x y, Instr.jpV0 0x300 ≠ .shr x y) ∧ (∀ x y, Instr.jpV0 0x300 ≠ .shl x y) ∧
    ∃ t, exec (.jpV0 0x300) State.reset = .next t :=
  ⟨nofun, nofun, _, rfl⟩

theorem witness_CycleRateAltersOnlyTheTimerUnit : ∃ t, step (atPc 0xF315) = .next t := ⟨_, rfl⟩
theorem witness_DirtyDoesNotInfluenceExecution : ∃ t, step (atPc 0xD015) = .next t := ⟨_, rfl⟩

theorem witness_LoadProgramCopiesOrRefuses :
    (List.replicate 3584 (0 : Byte)).length ≤ 3584 ∧ 3583 < (List.replicate 3584 (0 : Byte)).length ∧
    3584 < (List.replicate 3585 (0 : Byte)).length := by
  refine ⟨?_, ?_, ?_⟩ <;> rw [List.length_replicate] <;> decide

theorem witness_SetKeyWritesOneLatchEntry : (15 < 16) ∧ (16 ≤ 16) := by decide
theorem witness_HostReadsAndClearDirty :
    (63 < 64 ∧ 31 < 32) ∧ (64 ≤ 64 ∨ 32 ≤ 0) ∧ (64 ≤ 0 ∨ 32 ≤ 32) ∧ HostOp.setKey 3 true ≠ .reset ∧
    (∀ bytes, HostOp.setKey 3 true ≠ .loadProgram bytes) ∧ HostOp.setKey 3 true ≠ .runOneCycle ∧
    HostOp.setKey 3 true ≠ .clearDirty :=
  ⟨by decide, by decide, by decide, by decide, nofun, by decide, by decide⟩

/-- A positive rate; the rate 0, and no rational at all, are refused. -/
theorem witness_ModeStrapAndCycleRate :
    (0 : Rat) < 1 / 100 ∧ (∀ r : Rat, some (0 : Rat) = some r → r ≤ 0) ∧ ∀ r : Rat, none = some r → r ≤ 0 :=
  ⟨by decide +kernel, fun r h => by cases h; decide +kernel, fun r h => by cases h⟩

end Sys2Proof.Tests
end

section
/-! PROOFS. What each instruction may write, said once (`exec_frame`), what a whole step keeps (`step_keeps`), and from them
the statements about the state: who writes what, and the legal states. -/

namespace Sys2Proof.Machine

/-! ## The write column of R36 -/

/-- `s`, with the fields that `i` may write taken from `t`: the write column of R36, with the model's own `draws` for
`RND` and `STATUS` for the two instructions that can raise a fatal event. -/
def frame (i : Instr) (s t : State) : State :=
  match i with
  | .cls => { s with fb := t.fb, dirty := t.dirty }
  | .ret | .call _ => { s with stack := t.stack, pc := t.pc, status := t.status }
  | .jp _ | .jpV0 _ | .seByte _ _ | .sneByte _ _ | .seReg _ _ | .sneReg _ _ | .skp _ | .sknp _ => { s with pc := t.pc }
  | .ldByte _ _ | .addByte _ _ | .ldReg _ _ | .orReg _ _ | .andReg _ _ | .xorReg _ _ | .addReg _ _ | .subReg _ _
  | .subnReg _ _ | .shr _ _ | .shl _ _ | .ldVxDt _ => { s with v := t.v }
  | .ldVxK _ => { s with v := t.v, pc := t.pc }
  | .rnd _ _ => { s with v := t.v, draws := t.draws }
  | .drw _ _ _ => { s with v := t.v, fb := t.fb, dirty := t.dirty }
  | .ldI _ | .addIVx _ | .ldFVx _ => { s with index := t.index }
  | .ldBVx _ => { s with mem := t.mem }
  | .storeRegs _ => { s with mem := t.mem, index := t.index }
  | .loadRegs _ => { s with v := t.v, index := t.index }
  | .ldDtVx _ => { s with dt := t.dt }
  | .ldStVx _ => { s with st := t.st }

/-- A block load, with the loaded registers under a name of their own: unfolding them at each use is costly. -/
theorem exec_loadRegs {x : Reg} {s t : State} (h : exec (.loadRegs x) s = .next t) :
    ∃ w, w = loadedRegs s x ∧ t = advanceIndex x (setAllV s w) := by
  change Host.Outcome.next (advanceIndex x (setAllV s (loadedRegs s x))) = _ at h
  generalize hw : loadedRegs s x = w at h
  cases h
  exact ⟨w, rfl, rfl⟩

/-- A return: the top of the stack goes to `PC`, or the empty stack is a fatal event (R124). -/
theorem exec_ret_cases {s t : State} (h : exec .ret s = .next t) :
    (∃ a rest, s.stack = a :: rest ∧ t = { s with stack := rest, pc := a }) ∨
    (s.stack = [] ∧ t = { s with status := .fatal .stackUnderflow }) := by
  cases h
  rcases popThen_cases s fun a u => setPc u a with ⟨a, rest, hstack, hpop⟩ | ⟨hstack, hpop⟩
  · exact .inl ⟨a, rest, hstack, hpop⟩
  · exact .inr ⟨hstack, hpop⟩

/-- A call: the advanced `PC` goes on the stack, or the full stack is a fatal event (R126). -/
theorem exec_call_cases {nnn : Addr12} {s t : State} (h : exec (.call nnn) s = .next t) :
    (stackFull s = false ∧ t = { s with stack := s.pc :: s.stack, pc := addrWord nnn }) ∨
    (stackFull s = true ∧ t = { s with status := .fatal .stackOverflow }) := by
  cases h
  exact pushThen_cases s.pc s fun u => setPc u (addrWord nnn)

/-- An instruction writes no field outside its row of R36. -/
theorem exec_frame {i : Instr} {s t : State} (h : exec i s = .next t) : t = frame i s t := by
  cases i with
  | ret => rcases exec_ret_cases h with ⟨_, _, _, rfl⟩ | ⟨_, rfl⟩ <;> rfl
  | call nnn => rcases exec_call_cases h with ⟨_, rfl⟩ | ⟨_, rfl⟩ <;> rfl
  | seByte | sneByte | seReg | sneReg | skp | sknp => cases h; rw [skipIf_eq]; rfl
  | ldVxK x =>
    cases h
    cases firstKey s <;> rfl
  | loadRegs x =>
    obtain ⟨w, -, rfl⟩ := exec_loadRegs h
    rfl
  | _ => cases h; rfl

/-- `t` holds what `s` holds in the fields that no cycle writes: `KEY`, `MODE`, `CPS`, the strap and the parameters (R31 to
R33, R270, R6). -/
def SameHostInputs (s t : State) : Prop :=
  t.key = s.key ∧ t.mode = s.mode ∧ t.cps = s.cps ∧ t.modeStrap = s.modeStrap ∧ t.cfg = s.cfg

theorem SameHostInputs.trans {s t u : State} (hst : SameHostInputs s t) (htu : SameHostInputs t u) :
    SameHostInputs s u := by
  obtain ⟨hkey, hmode, hcps, hstrap, hcfg⟩ := hst
  obtain ⟨hkey', hmode', hcps', hstrap', hcfg'⟩ := htu
  exact ⟨hkey'.trans hkey, hmode'.trans hmode, hcps'.trans hcps, hstrap'.trans hstrap, hcfg'.trans hcfg⟩

/-- No row of R36 holds `ACC` or one of those fields. -/
theorem frame_hostInputs (i : Instr) (s t : State) : (frame i s t).acc = s.acc ∧ SameHostInputs s (frame i s t) := by
  cases i <;> exact ⟨rfl, rfl, rfl, rfl, rfl, rfl⟩

theorem exec_hostInputs {i : Instr} {s t : State} (h : exec i s = .next t) : t.acc = s.acc ∧ SameHostInputs s t := by
  rw [exec_frame h]
  exact frame_hostInputs i s t

theorem timerStep_hostInputs (s : State) : SameHostInputs s (timerStep s) :=
  ⟨timerStep_key s, timerStep_mode s, timerStep_cps s, timerStep_modeStrap s, timerStep_cfg s⟩

/-! ## What a whole step keeps -/

/-- A property that the fetch's advance, every instruction, the record of an unrecognised word, the timer step and the halt
keep is kept by a step. -/
theorem step_keeps {P : State → Prop} (hadvance : ∀ s, P s → P (advancePc s))
    (hexec : ∀ i s t, exec i s = .next t → P s → P t) (hdiag : ∀ w a s, P s → P (emitDiag w a s))
    (htimer : ∀ s, P s → P (timerStep s)) (hfatal : ∀ e s, P s → P { s with status := .fatal e })
    {s t : State} (h : step s = .next t) (hs : P s) : P t := by
  rcases step_cases h with ⟨_, _, rfl⟩ | ⟨_, s1, rfl, hexecuted⟩
  · exact hs
  · have hs1 : P s1 := by
      rcases hexecuted with ⟨i, _, hi⟩ | ⟨_, _, rfl⟩
      · exact hexec i _ _ hi (hadvance s hs)
      · exact hdiag _ _ _ (hadvance s hs)
    rcases endCycle_cases s s1 with ⟨_, hend⟩ | ⟨e, _, hend⟩ <;> rw [hend]
    · exact htimer s1 hs1
    · exact hfatal e s hs

/-! ## The legal states -/

theorem stackBounded_iff (s : State) : stackBounded s = true ↔ ∀ d, s.cfg.stackDepth = some d → s.stack.length ≤ d := by
  unfold stackBounded
  cases s.cfg.stackDepth <;> simp

/-- The two stores keep the canonical form (R183, R184), and no other instruction writes memory. -/
theorem exec_mem_wf {i : Instr} {s t : State} (h : exec i s = .next t) (hs : s.mem.wf = true) : t.mem.wf = true := by
  cases i with
  | ldBVx | storeRegs => cases h; exact memWriteBytes_wf _ _ _ hs
  | _ => rw [exec_frame h]; exact hs

/-- `RET` shortens the stack and `CALL` pushes only where it is not full (R122, R123). -/
theorem exec_stackBounded {i : Instr} {s t : State} (h : exec i s = .next t) (hs : stackBounded s = true) :
    stackBounded t = true := by
  rw [stackBounded_iff] at hs ⊢
  cases i with
  | ret =>
    rcases exec_ret_cases h with ⟨a, rest, hstack, rfl⟩ | ⟨-, rfl⟩
    · intro d hd
      have hdepth : rest.length + 1 ≤ d := by simpa [hstack] using hs d hd
      exact (Nat.le_succ _).trans hdepth
    · exact hs
  | call nnn =>
    rcases exec_call_cases h with ⟨hroom, rfl⟩ | ⟨-, rfl⟩
    · intro d hd
      by_contra hlong
      have hfull : stackFull s = true := (stackFull_iff s).mpr ⟨d, hd, Nat.not_lt.mp hlong⟩
      simp [hfull] at hroom
    · exact hs
  | _ => rw [exec_frame h]; exact hs

theorem exec_keeps_inv {i : Instr} {s t : State} (h : exec i s = .next t) (hs : s.Inv) : t.Inv := by
  obtain ⟨hacc, -, -, hcps, -, -⟩ := exec_hostInputs h
  exact ⟨exec_mem_wf h hs.memory, exec_stackBounded h hs.stack, hacc ▸ hs.acc, hcps ▸ hs.cps⟩

/-- The increment `60 / CPS` is not negative, and a tick takes 1 off an accumulator of at least 1 (R255). -/
theorem timerStep_acc_nonneg (s : State) (hacc : 0 ≤ s.acc) (hcps : 0 < s.cps) : 0 ≤ (timerStep s).acc := by
  have hsum : 0 ≤ s.acc + 60 / s.cps := by positivity
  rw [timerStep_acc]
  split
  · linarith
  · exact hsum

theorem timerStep_keeps_inv (s : State) (hs : s.Inv) : (timerStep s).Inv where
  memory := by simpa using hs.memory
  stack := by simpa [stackBounded] using hs.stack
  acc := timerStep_acc_nonneg s hs.acc hs.cps
  cps := by simpa using hs.cps

/-- Settles O43: the instructions keep each of the four clauses, and the timer step keeps `ACC` not negative. -/
theorem stepKeepsTheStateLegal : Obligations.StepKeepsTheStateLegal := by
  intro s t hs h
  refine step_keeps (P := State.Inv) ?_ (fun _ _ _ => exec_keeps_inv) ?_ timerStep_keeps_inv ?_ h hs
  · exact fun _ hs => ⟨hs.memory, hs.stack, hs.acc, hs.cps⟩
  · exact fun _ _ _ hs => ⟨hs.memory, hs.stack, hs.acc, hs.cps⟩
  · exact fun _ _ hs => ⟨hs.memory, hs.stack, hs.acc, hs.cps⟩

theorem reset_inv : State.reset.Inv :=
  ⟨rfl, rfl, le_refl _, by norm_num [State.reset]⟩

/-- A reset leaves a legal state whatever was there, as long as the rate it keeps is positive (R280). -/
theorem hostReset_inv (s : State) (hcps : 0 < s.cps) : (hostReset s).Inv :=
  ⟨memWriteBytes_wf _ [] 0 rfl, (stackBounded_iff _).mpr fun d _ => Nat.zero_le d, le_refl _, hcps⟩

/-- An accepted construction is a reset with a positive rate (R285). -/
theorem hostConstruct_ok {cfg : Params} {strap : Mode} {rate : Option Rat} {s : State}
    (h : hostConstruct cfg strap rate = .ok s) :
    ∃ r, rate = some r ∧ 0 < r ∧ s = hostReset { State.reset with cfg := cfg, modeStrap := strap, cps := r } := by
  cases rate with
  | none => cases h
  | some r =>
    by_cases hr : 0 < r
    · simp only [hostConstruct, if_pos hr] at h
      cases h
      exact ⟨r, rfl, hr, rfl⟩
    · simp [hostConstruct, hr] at h

/-- Settles O42: both are resets with a positive rate. -/
theorem constructionIsLegal : Obligations.ConstructionIsLegal := by
  refine ⟨reset_inv, fun cfg strap rate s h => ?_⟩
  obtain ⟨r, -, hr, rfl⟩ := hostConstruct_ok h
  exact hostReset_inv _ hr

/-! ## Which instructions write what -/

/-- `DIRTY` after an instruction: the two display instructions set it, the others leave it (R205). -/
def dirtyAfter : Instr → Bool → Bool
  | .cls, _ | .drw _ _ _, _ => true
  | _, d => d

theorem exec_dirty {i : Instr} {s t : State} (h : exec i s = .next t) : t.dirty = dirtyAfter i s.dirty := by
  cases i with
  | cls | drw => cases h; rfl
  | _ => rw [exec_frame h]; rfl

theorem dirtyAfter_true (i : Instr) : dirtyAfter i true = true := by
  cases i <;> rfl

theorem exec_keeps_dirty {i : Instr} {s t : State} (h : exec i s = .next t) (hs : s.dirty = true) : t.dirty = true := by
  rw [exec_dirty h, hs, dirtyAfter_true]

/-- Settles O47: outside `CLS` and `DRW` the frame holds both fields; those two set `DIRTY`, and nothing of a cycle
clears it. -/
theorem onlyClsAndDrwTouchTheDisplay : Obligations.OnlyClsAndDrwTouchTheDisplay := by
  constructor
  · intro i s t h hchanged
    cases i with
    | cls => exact ⟨.inl rfl, exec_dirty h⟩
    | drw x y n => exact ⟨.inr ⟨x, y, n, rfl⟩, exec_dirty h⟩
    | _ =>
      rcases hchanged with hfb | hdirty
      · exact absurd (congrArg State.fb (exec_frame h)) hfb
      · exact absurd (congrArg State.dirty (exec_frame h)) hdirty
  · intro s t
    exact step_keeps (P := fun u => u.dirty = true) (fun _ hs => hs) (fun _ _ _ => exec_keeps_dirty) (fun _ _ _ hs => hs)
      (fun _ hs => hs) (fun _ _ hs => hs)

/-- Settles O48, by the frame of each instruction. -/
theorem whoWritesMemoryAndIndex : Obligations.WhoWritesMemoryAndIndex := by
  intro i s t h
  constructor
  · intro hmem
    cases i with
    | ldBVx x => exact .inl ⟨x, rfl⟩
    | storeRegs x => exact .inr ⟨x, rfl⟩
    | _ => exact absurd (congrArg State.mem (exec_frame h)) hmem
  · intro hindex
    cases i with
    | ldI nnn => exact .inl ⟨nnn, rfl⟩
    | addIVx x => exact .inr (.inl ⟨x, rfl⟩)
    | ldFVx x => exact .inr (.inr (.inl ⟨x, rfl⟩))
    | storeRegs x => exact .inr (.inr (.inr (.inl ⟨x, rfl⟩)))
    | loadRegs x => exact .inr (.inr (.inr (.inr ⟨x, rfl⟩)))
    | _ => exact absurd (congrArg State.index (exec_frame h)) hindex

/-- Settles O49, by the frame of each instruction. -/
theorem whoWritesStackStatusAndPc : Obligations.WhoWritesStackStatusAndPc := by
  intro i s t h
  constructor
  · intro hchanged
    cases i with
    | ret => exact .inl rfl
    | call nnn => exact .inr ⟨nnn, rfl⟩
    | _ =>
      rcases hchanged with hstack | hstatus
      · exact absurd (congrArg State.stack (exec_frame h)) hstack
      · exact absurd (congrArg State.status (exec_frame h)) hstatus
  · intro hpc
    cases i with
    | ret | jp | call | jpV0 | seByte | sneByte | seReg | sneReg | skp | sknp | ldVxK => simp
    | _ => exact absurd (congrArg State.pc (exec_frame h)) hpc

/-- A write to one register reaches `VF` only where that register is `VF`. -/
theorem eq_VF_of_setV_changes {s : State} {x : Reg} {b : Byte} (h : getV (setV s x b) VF ≠ getV s VF) : x = VF := by
  by_contra hx
  exact h (by rw [getV_setV, if_neg (Ne.symm hx)])

/-- A block load reaches `VF` only where it goes through register 15 (R185). -/
theorem eq_VF_of_loadRegs_changes {s t : State} {x : Reg} (h : exec (.loadRegs x) s = .next t)
    (hvf : getV t VF ≠ getV s VF) : x = VF := by
  obtain ⟨w, hw, rfl⟩ := exec_loadRegs h
  by_contra hx
  have hshort : ¬VF ≤ x := fun hle => hx (le_antisymm (Fin.le_last x) hle)
  refine hvf ?_
  change w[VF] = _
  rw [hw, loadedRegs_getElem, if_neg hshort]

/-- Settles O50: an instruction whose row of R36 holds registers either writes a flag or has `VF` as its destination. -/
theorem whoWritesVF : Obligations.WhoWritesVF := by
  intro i s t h hvf
  cases i with
  | orReg x y | andReg x y | xorReg x y | addReg x y | subReg x y | subnReg x y | shr x y | shl x y | drw x y n =>
    exact .inl ⟨x, y, by simp⟩
  | ldReg x y =>
    cases h
    obtain rfl := eq_VF_of_setV_changes hvf
    exact .inl ⟨y, y, by simp⟩
  | ldByte x kk | addByte x kk | rnd x kk =>
    cases h
    obtain rfl := eq_VF_of_setV_changes hvf
    exact .inr (.inl ⟨kk, by simp⟩)
  | ldVxDt x =>
    cases h
    obtain rfl := eq_VF_of_setV_changes hvf
    exact .inr (.inr (.inl rfl))
  | ldVxK x =>
    cases h
    cases hk : firstKey s with
    | none => simp [hk, rewindPc, getV] at hvf
    | some k =>
      rw [hk] at hvf
      obtain rfl := eq_VF_of_setV_changes hvf
      exact .inr (.inr (.inr (.inl rfl)))
  | loadRegs x =>
    obtain rfl := eq_VF_of_loadRegs_changes h hvf
    exact .inr (.inr (.inr (.inr rfl)))
  | _ => exact hvf.elim (by rw [exec_frame h]; rfl)

/-- Settles O51: by the frame of each instruction, and the timer step and the halt write none of the host's fields. -/
theorem hostInputsAreNotWrittenByTheCore : Obligations.HostInputsAreNotWrittenByTheCore := by
  constructor
  · intro i s t h
    obtain ⟨hacc, hkey, hmode, hcps, hstrap, hcfg⟩ := exec_hostInputs h
    refine ⟨hacc, hkey, hmode, hcps, hstrap, hcfg, fun hdt => ?_, fun hst => ?_⟩
    · cases i with
      | ldDtVx x => exact ⟨x, rfl⟩
      | _ => exact absurd (congrArg State.dt (exec_frame h)) hdt
    · cases i with
      | ldStVx x => exact ⟨x, rfl⟩
      | _ => exact absurd (congrArg State.st (exec_frame h)) hst
  · intro s t h
    exact step_keeps (P := SameHostInputs s) (fun _ hu => hu) (fun _ _ _ hi hu => hu.trans (exec_hostInputs hi).2)
      (fun _ _ _ hu => hu) (fun u hu => hu.trans (timerStep_hostInputs u)) (fun _ _ hu => hu) h
      ⟨rfl, rfl, rfl, rfl, rfl⟩

/-! ## What does not influence what -/

/-- `s` with another `MODE`, `CPS` and `DIRTY`, the three fields that the noninterference statements vary. -/
def overlay (s : State) (m : Mode) (r : Rat) (d : Bool) : State := { s with mode := m, cps := r, dirty := d }

section Overlay

variable (s : State) (m : Mode) (r : Rat) (d : Bool)

theorem skipIf_overlay (c : Bool) : skipIf c (overlay s m r d) = overlay (skipIf c s) m r d := by
  cases c <;> rfl

theorem ret_overlay :
    popThen (overlay s m r d) (fun a u => setPc u a) = overlay (popThen s fun a u => setPc u a) m r d := by
  simp only [popThen, show (overlay s m r d).stack = s.stack from rfl]
  cases s.stack <;> rfl

theorem call_overlay (w a : Word) :
    pushThen w (overlay s m r d) (fun u => setPc u a) = overlay (pushThen w s fun u => setPc u a) m r d := by
  simp only [pushThen, show stackFull (overlay s m r d) = stackFull s from rfl]
  cases stackFull s <;> rfl

theorem execLdVxK_overlay (x : Reg) {t : State} (h : execLdVxK x s = .next t) :
    execLdVxK x (overlay s m r d) = .next (overlay t m r d) := by
  cases h
  simp only [execLdVxK, show firstKey (overlay s m r d) = firstKey s from rfl]
  cases firstKey s <;> rfl

theorem execLoadRegs_overlay (x : Reg) {t : State} (h : exec (.loadRegs x) s = .next t) :
    exec (.loadRegs x) (overlay s m r d) = .next (overlay t m r d) := by
  obtain ⟨w, hw, rfl⟩ := exec_loadRegs h
  have hsame : loadedRegs (overlay s m r d) x = w := by
    simp only [hw, loadedRegs, overlay]
  change Host.Outcome.next (advanceIndex x (setAllV (overlay s m r d) (loadedRegs (overlay s m r d) x))) = _
  rw [hsame]
  rfl

end Overlay

/-- No instruction reads `CPS` or `DIRTY`, and only the shifts read `MODE`: over other values each runs as before, and
`CLS` and `DRW` set `DIRTY`. -/
theorem exec_overlay {i : Instr} {s t : State} (m : Mode) (r : Rat) (d : Bool)
    (hmode : m = s.mode ∨ (∀ x y, i ≠ .shr x y) ∧ ∀ x y, i ≠ .shl x y) (h : exec i s = .next t) :
    exec i (overlay s m r d) = .next (overlay t m r (dirtyAfter i d)) := by
  cases i with
  | ret => cases h; exact congrArg Host.Outcome.next (ret_overlay s m r d)
  | call nnn => cases h; exact congrArg Host.Outcome.next (call_overlay s m r d s.pc (addrWord nnn))
  | seByte | sneByte | seReg | sneReg | skp | sknp =>
    cases h
    exact congrArg Host.Outcome.next (skipIf_overlay s m r d _)
  | ldVxK x => exact execLdVxK_overlay s m r d x h
  | shr x y =>
    rcases hmode with rfl | ⟨hshr, -⟩
    · cases h; rfl
    · exact absurd rfl (hshr x y)
  | shl x y =>
    rcases hmode with rfl | ⟨-, hshl⟩
    · cases h; rfl
    · exact absurd rfl (hshl x y)
  | loadRegs x => exact execLoadRegs_overlay s m r d x h
  | _ => cases h; rfl

/-- Settles O52: `exec_overlay` with the state's own `CPS` and `DIRTY`. -/
theorem modeAltersOnlyTheShifts : Obligations.ModeAltersOnlyTheShifts := by
  intro i s t m hshr hshl h
  obtain ⟨-, -, -, hcps, -, -⟩ := exec_hostInputs h
  calc exec i { s with mode := m }
      = .next (overlay t m s.cps (dirtyAfter i s.dirty)) := exec_overlay m s.cps s.dirty (.inr ⟨hshr, hshl⟩) h
    _ = .next { t with mode := m } := by rw [← exec_dirty h, ← hcps]; rfl

/-- A step over another `CPS` and `DIRTY` fetches and executes as before: a halted core halts again, and a running one ends
its cycle from the same two states but for `CPS` and `DIRTY`. -/
theorem step_overlay {s t : State} (r : Rat) (d : Bool) (h : step s = .next t) :
    (t = s ∧ step (overlay s s.mode r d) = .next (overlay s s.mode r d)) ∨
    ∃ s1 d1, t = endCycle s s1 ∧ s1.cps = s.cps ∧ (d = s.dirty → d1 = s1.dirty) ∧
      step (overlay s s.mode r d) = .next (endCycle (overlay s s.mode r d) (overlay s1 s1.mode r d1)) := by
  rcases step_cases h with ⟨e, hs, rfl⟩ | ⟨hs, s1, rfl, ⟨i, hi, he⟩ | ⟨x, hx, rfl⟩⟩
  · exact .inl ⟨rfl, step_fatal _ e hs⟩
  · obtain ⟨-, -, hmode, hcps, -, -⟩ := exec_hostInputs he
    refine .inr ⟨s1, dirtyAfter i d, rfl, hcps, ?_, ?_⟩
    · rintro rfl
      exact (exec_dirty he).symm
    · rw [hmode, step_of_decode (overlay s s.mode r d) i hs hi]
      have hover := exec_overlay (advancePc s).mode r d (.inl rfl) he
      exact congrArg (finishCycle _) hover
  · exact .inr ⟨_, d, rfl, rfl, id, step_of_reject _ x hs hx⟩

/-- Another `CPS` reaches the end of a cycle through the timer step alone. -/
theorem endCycle_overlay_cps (s s1 : State) (r : Rat) :
    ∃ acc dt st, endCycle (overlay s s.mode r s.dirty) (overlay s1 s1.mode r s1.dirty) =
      { endCycle s s1 with cps := r, acc := acc, dt := dt, st := st } := by
  rcases endCycle_cases s s1 with ⟨hrun, hend⟩ | ⟨e, he, hend⟩ <;> rw [hend]
  · exact ⟨_, _, _, endCycle_running _ (overlay s1 s1.mode r s1.dirty) hrun⟩
  · exact ⟨_, _, _, endCycle_fatal _ (overlay s1 s1.mode r s1.dirty) e he⟩

/-- Another `DIRTY` does not reach the timer step. -/
theorem endCycle_overlay_dirty (s s1 : State) (d d1 : Bool) :
    ∃ d2, endCycle (overlay s s.mode s.cps d) (overlay s1 s1.mode s1.cps d1) = { endCycle s s1 with dirty := d2 } := by
  rcases endCycle_cases s s1 with ⟨hrun, hend⟩ | ⟨e, he, hend⟩ <;> rw [hend]
  · exact ⟨d1, endCycle_running _ (overlay s1 s1.mode s1.cps d1) hrun⟩
  · exact ⟨d, endCycle_fatal _ (overlay s1 s1.mode s1.cps d1) e he⟩

/-- Settles O53: `CPS` is read by the timer step alone, which writes `ACC`, `DT` and `ST` alone. -/
theorem cycleRateAltersOnlyTheTimerUnit : Obligations.CycleRateAltersOnlyTheTimerUnit := by
  intro s t r h
  rcases step_overlay r s.dirty h with ⟨rfl, hstep⟩ | ⟨s1, d1, rfl, -, hdirty, hstep⟩
  · exact ⟨_, hstep, rfl⟩
  · obtain rfl := hdirty rfl
    obtain ⟨acc, dt, st, hend⟩ := endCycle_overlay_cps s s1 r
    exact ⟨_, hstep, by rw [hend]⟩

/-- Settles O54: `DIRTY` is read by no part of a cycle. -/
theorem dirtyDoesNotInfluenceExecution : Obligations.DirtyDoesNotInfluenceExecution := by
  intro s t d h
  rcases step_overlay s.cps d h with ⟨rfl, hstep⟩ | ⟨s1, d1, rfl, hcps, -, hstep⟩
  · exact ⟨_, hstep, rfl⟩
  · obtain ⟨d2, hend⟩ := endCycle_overlay_dirty s s1 d d1
    rw [hcps] at hend
    exact ⟨_, hstep, by rw [hend]⟩

end Sys2Proof.Machine
end

section
/-! PROOFS. Memory as the fetch and the block store reach it (family 20_memory.md): the fetched word as two reads, and the
bytes that a block store leaves at `I` upward. -/

namespace Sys2Proof.Machine

/-! ## The fetch -/

/-- Settles O7: `MemRead` reduces each of the two addresses itself, and the first byte is the high half of the word. -/
theorem fetchIsBigEndianAndWraps : Obligations.FetchIsBigEndianAndWraps := by
  intro s
  simp only [memRead_mod]
  exact wordOfBytes_toNat _ _

/-- The fetch reads `MEM` at the present `PC` and nothing else: the two bytes there determine the word
(R65, R73). -/
theorem fetchWord_eq_append {s : State} {hi lo : Byte} (hhi : memRead s.mem s.pc.toNat = hi)
    (hlo : memRead s.mem (s.pc.toNat + 1) = lo) : fetchWord s = hi ++ lo := by
  rw [fetchWord, hhi, hlo, wordOfBytes]

/-! ## The block store -/

theorem exec_storeRegs (x : Reg) (s : State) :
    exec (.storeRegs x) s = .next (advanceIndex x (storeAtI s (regsThrough s x))) := rfl

/-- After a block store, every address that reduces to that of its `k`-th byte reads as `V[k]` (R184, R186): the at most
sixteen bytes do not overlap in memory. -/
theorem memRead_blockStore {s : State} {x k : Reg} (hk : k ≤ x) {a : Nat}
    (ha : a % 4096 = (s.index.toNat + k.val) % 4096) :
    memRead (advanceIndex x (storeAtI s (regsThrough s x))).mem a = getV s k := by
  have hlt : k.val < (regsThrough s x).length := by
    rw [regsThrough_length]
    exact Nat.lt_succ_of_le hk
  have hlen : (regsThrough s x).length ≤ 4096 := by
    rw [regsThrough_length]
    omega
  calc memRead (memWriteBytes s.mem s.index.toNat (regsThrough s x)) a
      = (regsThrough s x)[k.val] := memRead_memWriteBytes_at _ _ _ _ _ hlt hlen ha
    _ = getV s k := regsThrough_getElem s x k hlt

/-- Settles O33: the block store leaves `PC` alone, so the fetch after it reads the `k`-th and the next stored byte. -/
theorem storesAreSeenByTheNextFetch : Obligations.StoresAreSeenByTheNextFetch := by
  intro s x k l hl hlx hpc
  have hkx : k ≤ x := le_trans (Fin.le_def.mpr (by omega)) hlx
  have hnext : (s.pc.toNat + 1) % 4096 = (s.index.toNat + l.val) % 4096 := by omega
  exact ⟨_, exec_storeRegs x s, fetchWord_eq_append (memRead_blockStore hkx hpc) (memRead_blockStore hlx hnext)⟩

end Sys2Proof.Machine
end

section
/-! PROOFS. The decoder and the encoder are inverse (family 30_encoding.md): `decodeInstr w = some i` if and only if
`encode i = w`. From that equivalence, the match and mask reading of the opcode map, and the words that are none of its
rows. -/

namespace Sys2Proof

open Laws

/-! ## What `decode` answers, in terms of `decodeInstr` -/

theorem decodeWord_eq_ok_iff (w : Word) (i : Instr) : decodeWord w = .ok i ↔ decodeInstr w = some i := by
  unfold decodeWord
  cases decodeInstr w <;> simp

theorem decodeWord_eq_unrecognised_iff (w : Word) : decodeWord w = .error (.unrecognised w) ↔ decodeInstr w = none := by
  unfold decodeWord
  cases decodeInstr w <;> simp

/-- The two bytes of a word that decodes are read as that word, and the bytes after them are left (R65, R90). -/
theorem decode_bytes_of_decodeInstr {w : Word} {i : Instr} (h : decodeInstr w = some i) (rest : List Byte) :
    decode (highByte w :: lowByte w :: rest) = .ok (i, rest) := by
  rw [decode, wordOfBytes_bytes, (decodeWord_eq_ok_iff w i).mpr h, Except.map]

/-! ## Decoding an encoded instruction -/

/-- The decoder looks at the fields of a word only, and those of a format are what was put in. -/
theorem decodeInstr_encode (i : Instr) : decodeInstr (encode i) = some i := by
  cases i with
  | cls | ret => rfl
  | jp | call | ldI | jpV0 => simp [encode, decodeInstr, formatNNN_fields]
  | seByte | sneByte | ldByte | addByte | rnd => simp [encode, decodeInstr, formatXKK_fields]
  | seReg | sneReg | drw => simp [encode, decodeInstr, formatXYN_fields]
  | ldReg | orReg | andReg | xorReg | addReg | subReg | shr | subnReg | shl =>
    simp [encode, decodeInstr, decodeFamily8, formatXYN_fields]
  | skp | sknp => simp [encode, decodeInstr, decodeFamilyE, formatXKK_fields]
  | ldVxDt | ldVxK | ldDtVx | ldStVx | addIVx | ldFVx | ldBVx | storeRegs | loadRegs =>
    simp [encode, decodeInstr, decodeFamilyF, formatXKK_fields]

/-! ## Encoding what a word decodes to -/

section Formats

variable {w : Word} {op : BitVec 4}

theorem formatNNN_of_opField (hop : opField w = op) : formatNNN op (nnnField w) = w :=
  hop ▸ formatNNN_of_fields w

theorem formatXKK_of_opField (hop : opField w = op) : formatXKK op (xField w) (kkField w) = w :=
  hop ▸ formatXKK_of_fields w

theorem formatXYN_of_opField (hop : opField w = op) : formatXYN op (xField w) (yField w) (nField w) = w :=
  hop ▸ formatXYN_of_fields w

theorem formatXKK_of_opField_kkField {kk : Byte} (hop : opField w = op) (hkk : kkField w = kk) :
    formatXKK op (xField w) kk = w :=
  hkk ▸ formatXKK_of_opField hop

theorem formatXYN_of_opField_nField {n : Nibble} (hop : opField w = op) (hn : nField w = n) :
    formatXYN op (xField w) (yField w) n = w :=
  hn ▸ formatXYN_of_opField hop

end Formats

section Families

variable {w : Word} {i : Instr}

theorem encode_of_decodeFamily0 (hop : opField w = 0x0) (h : decodeFamily0 w = some i) : encode i = w := by
  have hw := formatNNN_of_opField hop
  unfold decodeFamily0 at h
  split at h
  next hnnn => cases h; rw [← hw, BitVec.eq_of_toNat_eq (y := 0x0E0) hnnn]; rfl
  next hnnn => cases h; rw [← hw, BitVec.eq_of_toNat_eq (y := 0x0EE) hnnn]; rfl
  next => cases h

theorem encode_of_decodeFamily8 (hop : opField w = 0x8) (h : decodeFamily8 w = some i) : encode i = w := by
  unfold decodeFamily8 at h
  split at h
  all_goals cases h
  all_goals next hn => exact formatXYN_of_opField_nField hop (BitVec.eq_of_toNat_eq hn)

theorem encode_of_decodeFamilyE (hop : opField w = 0xE) (h : decodeFamilyE w = some i) : encode i = w := by
  unfold decodeFamilyE at h
  split at h
  all_goals cases h
  all_goals next hkk => exact formatXKK_of_opField_kkField hop (BitVec.eq_of_toNat_eq hkk)

theorem encode_of_decodeFamilyF (hop : opField w = 0xF) (h : decodeFamilyF w = some i) : encode i = w := by
  unfold decodeFamilyF at h
  split at h
  all_goals cases h
  all_goals next hkk => exact formatXKK_of_opField_kkField hop (BitVec.eq_of_toNat_eq hkk)

end Families

/-- Each family puts every bit of the word into an operand or has tested it (R94). -/
theorem encode_of_decodeInstr {w : Word} {i : Instr} (h : decodeInstr w = some i) : encode i = w := by
  unfold decodeInstr at h
  split at h
  case h_1 hop => exact encode_of_decodeFamily0 (BitVec.eq_of_toNat_eq hop) h
  case h_2 hop | h_3 hop | h_11 hop | h_12 hop =>
    cases h; exact formatNNN_of_opField (BitVec.eq_of_toNat_eq hop)
  case h_4 hop | h_5 hop | h_7 hop | h_8 hop | h_13 hop =>
    cases h; exact formatXKK_of_opField (BitVec.eq_of_toNat_eq hop)
  case h_6 hop | h_10 hop =>
    obtain ⟨hn, hi⟩ := Option.ite_none_right_eq_some.mp h
    cases hi; exact formatXYN_of_opField_nField (BitVec.eq_of_toNat_eq hop) hn
  case h_9 hop => exact encode_of_decodeFamily8 (BitVec.eq_of_toNat_eq hop) h
  case h_14 hop => cases h; exact formatXYN_of_opField (BitVec.eq_of_toNat_eq hop)
  case h_15 hop => exact encode_of_decodeFamilyE (BitVec.eq_of_toNat_eq hop) h
  case h_16 hop => exact encode_of_decodeFamilyF (BitVec.eq_of_toNat_eq hop) h
  case h_17 => cases h

theorem decodeInstr_eq_some_iff (w : Word) (i : Instr) : decodeInstr w = some i ↔ encode i = w :=
  ⟨encode_of_decodeInstr, fun h => h ▸ decodeInstr_encode i⟩

/-- Settles O1: the bytes put together are the encoded word, which decodes to its instruction. -/
theorem decodeOfEncodeIsTheInstruction : Obligations.DecodeOfEncodeIsTheInstruction := fun i rest =>
  decode_bytes_of_decodeInstr (decodeInstr_encode i) rest

/-- Settles O2, by the families of the decoder. -/
theorem encodeOfDecodeIsTheWord : Obligations.EncodeOfDecodeIsTheWord := fun w i h =>
  encode_of_decodeInstr ((decodeWord_eq_ok_iff w i).mp h)

/-! ## The rows of the opcode map -/

/-- Every instruction is well-formed and its word satisfies its own row, by the family `TableRow` (R95). -/
theorem tableRow : (i : Instr) → TableRow.Statement i
  | .cls => TableRow.cls
  | .ret => TableRow.ret
  | .jp nnn => TableRow.jp nnn
  | .call nnn => TableRow.call nnn
  | .seByte x kk => TableRow.seByte x kk
  | .sneByte x kk => TableRow.sneByte x kk
  | .seReg x y => TableRow.seReg x y
  | .ldByte x kk => TableRow.ldByte x kk
  | .addByte x kk => TableRow.addByte x kk
  | .ldReg x y => TableRow.ldReg x y
  | .orReg x y => TableRow.orReg x y
  | .andReg x y => TableRow.andReg x y
  | .xorReg x y => TableRow.xorReg x y
  | .addReg x y => TableRow.addReg x y
  | .subReg x y => TableRow.subReg x y
  | .shr x y => TableRow.shr x y
  | .subnReg x y => TableRow.subnReg x y
  | .shl x y => TableRow.shl x y
  | .sneReg x y => TableRow.sneReg x y
  | .ldI nnn => TableRow.ldI nnn
  | .jpV0 nnn => TableRow.jpV0 nnn
  | .rnd x kk => TableRow.rnd x kk
  | .drw x y n => TableRow.drw x y n
  | .skp x => TableRow.skp x
  | .sknp x => TableRow.sknp x
  | .ldVxDt x => TableRow.ldVxDt x
  | .ldVxK x => TableRow.ldVxK x
  | .ldDtVx x => TableRow.ldDtVx x
  | .ldStVx x => TableRow.ldStVx x
  | .addIVx x => TableRow.addIVx x
  | .ldFVx x => TableRow.ldFVx x
  | .ldBVx x => TableRow.ldBVx x
  | .storeRegs x => TableRow.storeRegs x
  | .loadRegs x => TableRow.loadRegs x

/-- The instruction of the row of `i` whose operands are the fields of `w` (R92). -/
def Instr.withFieldsOf (w : Word) : Instr → Instr
  | .cls => .cls
  | .ret => .ret
  | .jp _ => .jp (nnnField w)
  | .call _ => .call (nnnField w)
  | .seByte _ _ => .seByte (xField w) (kkField w)
  | .sneByte _ _ => .sneByte (xField w) (kkField w)
  | .seReg _ _ => .seReg (xField w) (yField w)
  | .ldByte _ _ => .ldByte (xField w) (kkField w)
  | .addByte _ _ => .addByte (xField w) (kkField w)
  | .ldReg _ _ => .ldReg (xField w) (yField w)
  | .orReg _ _ => .orReg (xField w) (yField w)
  | .andReg _ _ => .andReg (xField w) (yField w)
  | .xorReg _ _ => .xorReg (xField w) (yField w)
  | .addReg _ _ => .addReg (xField w) (yField w)
  | .subReg _ _ => .subReg (xField w) (yField w)
  | .shr _ _ => .shr (xField w) (yField w)
  | .subnReg _ _ => .subnReg (xField w) (yField w)
  | .shl _ _ => .shl (xField w) (yField w)
  | .sneReg _ _ => .sneReg (xField w) (yField w)
  | .ldI _ => .ldI (nnnField w)
  | .jpV0 _ => .jpV0 (nnnField w)
  | .rnd _ _ => .rnd (xField w) (kkField w)
  | .drw _ _ _ => .drw (xField w) (yField w) (nField w)
  | .skp _ => .skp (xField w)
  | .sknp _ => .sknp (xField w)
  | .ldVxDt _ => .ldVxDt (xField w)
  | .ldVxK _ => .ldVxK (xField w)
  | .ldDtVx _ => .ldDtVx (xField w)
  | .ldStVx _ => .ldStVx (xField w)
  | .addIVx _ => .addIVx (xField w)
  | .ldFVx _ => .ldFVx (xField w)
  | .ldBVx _ => .ldBVx (xField w)
  | .storeRegs _ => .storeRegs (xField w)
  | .loadRegs _ => .loadRegs (xField w)

theorem matchBits_withFieldsOf (w : Word) (i : Instr) : matchBits (i.withFieldsOf w) = matchBits i := by
  cases i <;> rfl

theorem maskBits_withFieldsOf (w : Word) (i : Instr) : maskBits (i.withFieldsOf w) = maskBits i := by
  cases i <;> rfl

theorem append_inj {m n : Nat} {a c : BitVec m} {b d : BitVec n} (h : a ++ b = c ++ d) : a = c ∧ b = d := by
  have hlow : b = d := by
    have hext := congrArg (BitVec.extractLsb' 0 n) h
    rwa [BitVec.extractLsb'_append_eq_right, BitVec.extractLsb'_append_eq_right] at hext
  subst hlow
  exact ⟨(BitVec.append_left_inj b).mp h, rfl⟩

/-! ### A row's mask leaves the fields that the row fixes

A masked word is its fixed fields with zeros between them (`TableRow.formatXYN_mask_ends` and its like), so the match gives
the fields back. -/

section Masks

variable {w : Word} {op : BitVec 4}

theorem opField_of_mask_top (h : w &&& 0xF000 = op ++ (0 : BitVec 12)) : opField w = op := by
  have hmask := TableRow.formatNNN_mask_top (opField w) (nnnField w)
  rw [formatNNN_of_fields, h] at hmask
  exact (append_inj hmask).1.symm

theorem formatXYN_of_mask_ends {n : Nibble} (h : w &&& 0xF00F = op ++ (0 : BitVec 8) ++ n) :
    formatXYN op (xField w) (yField w) n = w := by
  have hmask := TableRow.formatXYN_mask_ends (opField w) (xField w) (yField w) (nField w)
  rw [formatXYN_of_fields, h] at hmask
  obtain ⟨hop, hn⟩ := append_inj hmask
  exact formatXYN_of_opField_nField (append_inj hop).1.symm hn.symm

theorem formatXKK_of_mask_sub {kk : Byte} (h : w &&& 0xF0FF = op ++ (0 : BitVec 4) ++ kk) :
    formatXKK op (xField w) kk = w := by
  have hmask := TableRow.formatXKK_mask_sub (opField w) (xField w) (kkField w)
  rw [formatXKK_of_fields, h] at hmask
  obtain ⟨hop, hkk⟩ := append_inj hmask
  exact formatXKK_of_opField_kkField (append_inj hop).1.symm hkk.symm

end Masks

/-- A word that satisfies a row is the encoding of the instruction of that row with the word's own fields. -/
theorem encode_withFieldsOf {w : Word} {i : Instr} (h : matchesRow i w = true) : encode (i.withFieldsOf w) = w := by
  replace h : w &&& maskBits i = matchBits i := beq_iff_eq.mp h
  cases i with
  | cls | ret => exact h.symm.trans BitVec.and_allOnes
  | jp | call | ldI | jpV0 => exact formatNNN_of_opField (opField_of_mask_top h)
  | seByte | sneByte | ldByte | addByte | rnd => exact formatXKK_of_opField (opField_of_mask_top h)
  | drw => exact formatXYN_of_opField (opField_of_mask_top h)
  | seReg | sneReg | ldReg | orReg | andReg | xorReg | addReg | subReg | shr | subnReg | shl =>
    exact formatXYN_of_mask_ends h
  | skp | sknp | ldVxDt | ldVxK | ldDtVx | ldStVx | addIVx | ldFVx | ldBVx | storeRegs | loadRegs =>
    exact formatXKK_of_mask_sub h

theorem matchesRow_of_decodeInstr {w : Word} {i : Instr} (h : decodeInstr w = some i) : matchesRow i w = true :=
  encode_of_decodeInstr h ▸ (tableRow i).2

theorem decodeInstr_of_matchesRow {w : Word} {i : Instr} (h : matchesRow i w = true) :
    decodeInstr w = some (i.withFieldsOf w) :=
  (decodeInstr_eq_some_iff w _).mpr (encode_withFieldsOf h)

/-- Rows are disjoint because the decoder answers one instruction for a word. -/
theorem matchesRow_unique {w : Word} {i j : Instr} (hi : matchesRow i w = true) (hj : matchesRow j w = true) :
    matchBits i = matchBits j ∧ maskBits i = maskBits j := by
  have hij : i.withFieldsOf w = j.withFieldsOf w :=
    Option.some.inj ((decodeInstr_of_matchesRow hi).symm.trans (decodeInstr_of_matchesRow hj))
  rw [← matchBits_withFieldsOf w i, ← maskBits_withFieldsOf w i, hij, matchBits_withFieldsOf, maskBits_withFieldsOf]
  exact ⟨rfl, rfl⟩

theorem decodeInstr_eq_none_of_no_row {w : Word} (h : ∀ i, matchesRow i w = false) : decodeInstr w = none := by
  rw [Option.eq_none_iff_forall_ne_some]
  intro i hi
  exact Bool.false_ne_true ((h i).symm.trans (matchesRow_of_decodeInstr hi))

/-- Settles O3: a word that meets a row decodes to the instruction of that row with the word's own fields. -/
theorem decodingFollowsMatchAndMask : Obligations.DecodingFollowsMatchAndMask := by
  refine ⟨fun w i h => ?_, fun w i h => ?_, fun w i j => matchesRow_unique, fun w h => ?_⟩
  · exact matchesRow_of_decodeInstr ((decodeWord_eq_ok_iff w i).mp h)
  · exact ⟨i.withFieldsOf w, (decodeWord_eq_ok_iff w _).mpr (decodeInstr_of_matchesRow h),
      matchBits_withFieldsOf w i, maskBits_withFieldsOf w i⟩
  · exact (decodeWord_eq_unrecognised_iff w).mpr (decodeInstr_eq_none_of_no_row h)

/-! ## The unrecognised words

Each dispatch compares a field's number with the numbers of its arms: an arm that answers an instruction has its number
excluded on the right, and the last arm has all of them excluded. -/

theorem decodeFamily0_eq_none_iff (w : Word) : decodeFamily0 w = none ↔ nnnField w ≠ 0x0E0 ∧ nnnField w ≠ 0x0EE := by
  simp only [ne_eq, BitVec.toNat_eq]
  unfold decodeFamily0
  generalize (nnnField w).toNat = nnn
  split
  case h_3 => simp_all
  all_goals simp

theorem decodeFamily8_eq_none_iff (w : Word) : decodeFamily8 w = none ↔
    nField w = 0x8 ∨ nField w = 0x9 ∨ nField w = 0xA ∨ nField w = 0xB ∨ nField w = 0xC ∨ nField w = 0xD ∨
      nField w = 0xF := by
  have hn := (nField w).isLt
  simp only [BitVec.toNat_eq]
  unfold decodeFamily8
  generalize (nField w).toNat = n at hn ⊢
  split
  case h_10 => grind -- of the sixteen values, the seven without an arm
  all_goals simp

theorem decodeFamilyE_eq_none_iff (w : Word) : decodeFamilyE w = none ↔ kkField w ≠ 0x9E ∧ kkField w ≠ 0xA1 := by
  simp only [ne_eq, BitVec.toNat_eq]
  unfold decodeFamilyE
  generalize (kkField w).toNat = kk
  split
  case h_3 => simp_all
  all_goals simp

theorem decodeFamilyF_eq_none_iff (w : Word) : decodeFamilyF w = none ↔
    kkField w ≠ 0x07 ∧ kkField w ≠ 0x0A ∧ kkField w ≠ 0x15 ∧ kkField w ≠ 0x18 ∧ kkField w ≠ 0x1E ∧ kkField w ≠ 0x29 ∧
      kkField w ≠ 0x33 ∧ kkField w ≠ 0x55 ∧ kkField w ≠ 0x65 := by
  simp only [ne_eq, BitVec.toNat_eq]
  unfold decodeFamilyF
  generalize (kkField w).toNat = kk
  split
  case h_10 => simp_all
  all_goals simp

/-- In family 0 the low twelve bits are the word. -/
theorem nnnField_eq_iff_of_opField_zero {w : Word} (hop : opField w = 0x0) (nnn : Addr12) :
    nnnField w = nnn ↔ w = formatNNN 0x0 nnn := by
  constructor
  · rintro rfl
    exact (formatNNN_of_opField hop).symm
  · rintro rfl
    exact (formatNNN_fields 0x0 nnn).2

theorem decodeInstr_eq_none_iff (w : Word) : decodeInstr w = none ↔
    (opField w = 0x0 ∧ decodeFamily0 w = none) ∨ (opField w = 0x5 ∧ nField w ≠ 0x0) ∨
    (opField w = 0x8 ∧ decodeFamily8 w = none) ∨ (opField w = 0x9 ∧ nField w ≠ 0x0) ∨
    (opField w = 0xE ∧ decodeFamilyE w = none) ∨ (opField w = 0xF ∧ decodeFamilyF w = none) := by
  have hop := (opField w).isLt
  simp only [BitVec.toNat_eq (x := opField w)]
  unfold decodeInstr
  generalize (opField w).toNat = op at hop ⊢
  split
  case h_17 => grind -- no value of four bits is left
  all_goals simp

/-- Settles O4: each set is a family and what its secondary dispatch rejects. -/
theorem unrecognisedWordsAreTheSixSets : Obligations.UnrecognisedWordsAreTheSixSets := by
  intro w
  have h0 : opField w = 0x0 ∧ decodeFamily0 w = none ↔ opField w = 0x0 ∧ w ≠ 0x00E0 ∧ w ≠ 0x00EE := by
    refine and_congr_right fun hop => ?_
    rw [decodeFamily0_eq_none_iff, ne_eq, nnnField_eq_iff_of_opField_zero hop, ne_eq, nnnField_eq_iff_of_opField_zero hop]
    exact Iff.rfl
  rw [decodeWord_eq_unrecognised_iff, decodeInstr_eq_none_iff, h0, decodeFamily8_eq_none_iff, decodeFamilyE_eq_none_iff,
    decodeFamilyF_eq_none_iff]

end Sys2Proof
end

section
/-! PROOFS. The cycle and the control flow (family 40_cycle_and_control_flow.md): what a step makes of an execution's
answer, the two ends of `RET` and of `CALL`, and where the jumps and the register skips leave `PC`. -/

namespace Sys2Proof.Machine

/-! ## The step from what the execution answered -/

/-- A running core's step ends the cycle on what the decoded instruction answered (R120, R121). -/
theorem step_of_exec {s t : State} {i : Instr} (hrun : s.status = .running) (hi : decodeWord (fetchWord s) = .ok i)
    (he : exec i (advancePc s) = .next t) : step s = .next (endCycle s t) := by
  rw [step_of_decode s i hrun hi, he, finishCycle]

/-- An instruction that raises a fatal event halts the state its cycle began in (R243). -/
theorem step_of_exec_fatal {s t : State} {i : Instr} {e : FatalEvent} (hrun : s.status = .running)
    (hi : decodeWord (fetchWord s) = .ok i) (he : exec i (advancePc s) = .next t) (ht : t.status = .fatal e) :
    step s = .next { s with status := .fatal e } := by
  rw [step_of_exec hrun hi he, endCycle_fatal s t e ht]

/-- Decoding the two bytes at `PC` is decoding the fetched word (R65). -/
theorem decode_bytes_at_pc (s : State) :
    decode (memReadBytes s.mem s.pc.toNat 2) = (decodeWord (fetchWord s)).map fun i => (i, []) := rfl

theorem decodeWord_of_decode_bytes_at_pc {s : State} {i : Instr}
    (h : decode (memReadBytes s.mem s.pc.toNat 2) = .ok (i, [])) : decodeWord (fetchWord s) = .ok i := by
  rw [decode_bytes_at_pc] at h
  cases hw : decodeWord (fetchWord s) with
  | error r =>
    rw [hw] at h
    cases h
  | ok j =>
    rw [hw] at h
    cases h
    rfl

/-- Settles O6: the end of the cycle is the timer step or the halt, by the `STATUS` the instruction leaves. -/
theorem stepRunsTheDecodedInstruction : Obligations.StepRunsTheDecodedInstruction := by
  intro s t i hrun hbytes he
  have hi := decodeWord_of_decode_bytes_at_pc hbytes
  constructor
  · intro ht
    rw [step_of_exec hrun hi he, endCycle_running s t ht]
  · intro e ht
    exact step_of_exec_fatal hrun hi he ht

/-- Settles O8: the record leaves `STATUS` running, so the cycle ends with the timer step. -/
theorem unrecognisedWordOnlyAdvances : Obligations.UnrecognisedWordOnlyAdvances := by
  intro s r hrun hr
  have hend : (emitDiag (fetchWord s) s.pc (advancePc s)).status = .running := hrun
  rw [step_of_reject s r hrun hr, endCycle_running _ _ hend]
  rfl

/-! ## `RET` and `CALL` -/

theorem exec_ret_of_cons {s : State} {a : Word} {rest : List Word} (h : s.stack = a :: rest) :
    exec .ret s = .next { s with stack := rest, pc := a } := by
  simp only [exec, execRet, popThen, h]
  rfl

theorem exec_ret_of_nil {s : State} (h : s.stack = []) :
    exec .ret s = .next { s with status := .fatal .stackUnderflow } := by
  simp only [exec, execRet, popThen, h, raiseFatal, setStatus]

theorem exec_call_of_room {s : State} (nnn : Addr12) (h : stackFull s = false) :
    exec (.call nnn) s = .next { s with stack := s.pc :: s.stack, pc := addrWord nnn } := by
  simp only [exec, execCall, pushThen, h]
  rfl

theorem exec_call_of_full {s : State} (nnn : Addr12) (h : stackFull s = true) :
    exec (.call nnn) s = .next { s with status := .fatal .stackOverflow } := by
  simp only [exec, execCall, pushThen, h, if_true, raiseFatal, setStatus]

/-- There is room for a push below `STACK_DEPTH` entries, and always where the depth is infinite (R123). -/
theorem stackFull_eq_false_iff (s : State) :
    stackFull s = false ↔ ∀ d, s.cfg.stackDepth = some d → s.stack.length < d := by
  rw [Bool.eq_false_iff, ne_eq, stackFull_iff]
  simp

/-- Settles O13: the fetch's advance leaves the stack, so on an empty one the cycle raises the event. -/
theorem returnPopsOrHalts : Obligations.ReturnPopsOrHalts := by
  constructor
  · intro s a rest hstack
    exact exec_ret_of_cons hstack
  · intro s hrun hi hstack
    exact step_of_exec_fatal hrun hi (exec_ret_of_nil (s := advancePc s) hstack) rfl

/-- Settles O14: the fetch's advance leaves the stack and its depth, so on a full one the cycle raises the event. -/
theorem callPushesOrHalts : Obligations.CallPushesOrHalts := by
  constructor
  · intro s nnn hroom
    exact ⟨_, exec_call_of_room nnn ((stackFull_eq_false_iff s).mpr hroom), rfl, addrWord_toNat nnn⟩
  · intro s nnn hrun hi hdepth
    have hfull : stackFull (advancePc s) = true := (stackFull_iff _).mpr ⟨_, hdepth, le_refl _⟩
    exact step_of_exec_fatal hrun hi (exec_call_of_full nnn hfull) rfl

/-! ## Jumps and skips -/

/-- Settles O15: each of the two writes the literal, zero-extended. -/
theorem literalsGoToPcAndIndex : Obligations.LiteralsGoToPcAndIndex := fun s nnn =>
  ⟨⟨setPc s (addrWord nnn), rfl, rfl, addrWord_toNat nnn⟩, ⟨setIndex s (addrWord nnn), rfl, rfl, addrWord_toNat nnn⟩⟩

/-- A 12-bit literal and a byte add up without a carry out of 16 bits. -/
theorem addrWord_add_byteWord_toNat (nnn : Addr12) (b : Byte) :
    (addrWord nnn + byteWord b).toNat = nnn.toNat + b.toNat := by
  rw [BitVec.toNat_add, addrWord_toNat, byteWord_toNat]
  omega

/-- Settles O16: the sum stays below 65536, so it is not reduced. -/
theorem jumpWithOffsetAddsV0 : Obligations.JumpWithOffsetAddsV0 := fun s nnn =>
  ⟨setPc s (addrWord nnn + byteWord (getV s V0)), rfl, rfl, addrWord_add_byteWord_toNat nnn _⟩

/-- `PC` after a skip, as a number (R127, R132). -/
theorem skipIf_pc_toNat (c : Bool) (s : State) :
    (skipIf c s).pc.toNat = if c then (s.pc.toNat + 2) % 65536 else s.pc.toNat := by
  cases c with
  | false => rfl
  | true => exact BitVec.toNat_add s.pc 2

/-- An instruction that skips on `c` writes `PC` alone, and moves it by 2 exactly when `c` holds. -/
theorem exec_skip {i : Instr} {s : State} {c : Bool} (h : exec i s = .next (skipIf c s)) :
    ∃ t, exec i s = .next t ∧ t = { s with pc := t.pc } ∧
      t.pc.toNat = if c then (s.pc.toNat + 2) % 65536 else s.pc.toNat :=
  ⟨skipIf c s, h, by rw [skipIf_eq], skipIf_pc_toNat c s⟩

/-- Settles O17: each of the four is a skip, `SE` on equality and `SNE` on its negation. -/
theorem registerSkipsMovePcByTwo : Obligations.RegisterSkipsMovePcByTwo := by
  intro s x y kk
  refine ⟨?seByte, ?sneByte, ?seReg, ?sneReg⟩
  case seByte => simpa using exec_skip (i := .seByte x kk) (s := s) rfl
  case sneByte => simpa using exec_skip (i := .sneByte x kk) (s := s) rfl
  case seReg => simpa using exec_skip (i := .seReg x y) (s := s) rfl
  case sneReg => simpa using exec_skip (i := .sneReg x y) (s := s) rfl

end Sys2Proof.Machine
end

section
/-! PROOFS. Loads, arithmetic, logic, shifts and the random draw (family 41_load_and_alu.md): the one or two registers that a
write leaves changed, and the flag bytes and 8-bit results as numbers. -/

namespace Sys2Proof.Machine

/-! ## The registers after a write -/

@[simp] theorem getV_setV_same (s : State) (x : Reg) (b : Byte) : getV (setV s x b) x = b := by
  rw [getV_setV, if_pos rfl]

theorem getV_setV_of_ne {s : State} {x r : Reg} {b : Byte} (hr : r ≠ x) : getV (setV s x b) r = getV s r := by
  rw [getV_setV, if_neg hr]

@[simp] theorem getV_countDraw (s : State) (r : Reg) : getV (countDraw s) r = getV s r := rfl

@[simp] theorem getV_setVFlag_flag (s : State) (x : Reg) (b f : Byte) : getV (setVFlag s x b f) VF = f :=
  getV_setV_same _ VF f

/-- The result survives the flag write except in `VF` itself (R163, decision D11). -/
theorem getV_setVFlag_result {s : State} {x : Reg} {b f : Byte} (hx : x ≠ VF) : getV (setVFlag s x b f) x = b := by
  rw [getV_setVFlag, if_neg hx, if_pos rfl]

theorem getV_setVFlag_of_ne {s : State} {x : Reg} {b f : Byte} (r : Reg) (hrx : r ≠ x) (hr : r ≠ VF) :
    getV (setVFlag s x b f) r = getV s r := by
  rw [getV_setVFlag, if_neg hr, if_neg hrx]

/-! ## Flags and results as numbers -/

theorem flagByte_decide (p : Prop) [Decidable p] : flagByte (decide p) = if p then 1 else 0 := by
  by_cases hp : p <;> simp [hp]

theorem lowBitFlag_toNat (b : Byte) : (lowBitFlag b).toNat = b.toNat % 2 := by
  simp only [lowBitFlag, flagByte_toNat, BitVec.getLsbD, Nat.testBit_zero, decide_eq_true_eq]
  split <;> omega

theorem highBitFlag_toNat (b : Byte) : (highBitFlag b).toNat = b.toNat / 128 := by
  have hb := b.isLt
  simp only [highBitFlag, flagByte_toNat, BitVec.getLsbD, Nat.testBit_eq_decide_div_mod_eq, decide_eq_true_eq]
  split <;> omega

theorem shiftRight_one_toNat (b : Byte) : (b >>> 1).toNat = b.toNat / 2 := by
  rw [BitVec.toNat_ushiftRight, Nat.shiftRight_one]

theorem shiftLeft_one_toNat (b : Byte) : (b <<< 1).toNat = 2 * b.toNat % 256 := by
  rw [BitVec.toNat_shiftLeft, Nat.shiftLeft_eq, pow_one, Nat.mul_comm]

/-- Subtraction wraps (R162): as an integer it is the difference reduced mod 256. -/
theorem sub_toNat_emod (a b : Byte) : ((a - b).toNat : Int) = (a.toNat - b.toNat : Int) % 256 := by
  rw [BitVec.toNat_sub]
  omega

theorem shiftSource_eq (s : State) (x y : Reg) :
    shiftSource s x y = if s.mode = .legacy then getV s y else getV s x := by
  unfold shiftSource
  cases s.mode <;> rfl

/-- No bit of a byte is lost by `SHR`: the result holds the upper seven and the flag the lowest. -/
theorem eq_of_shiftRight_eq_of_lowBitFlag_eq {a b : Byte} (hresult : a >>> 1 = b >>> 1)
    (hflag : lowBitFlag a = lowBitFlag b) : a = b := by
  have hhalf := congrArg BitVec.toNat hresult
  have hlow := congrArg BitVec.toNat hflag
  rw [shiftRight_one_toNat, shiftRight_one_toNat] at hhalf
  rw [lowBitFlag_toNat, lowBitFlag_toNat] at hlow
  exact BitVec.eq_of_toNat_eq (by omega)

/-! ## The obligations of the family -/

/-- Settles O26: equal registers would give equal results and equal flags, hence equal source values `V[y]` and `V[x]`. -/
theorem shiftRightForksOnMode : Obligations.ShiftRightForksOnMode := by
  intro s t u x y hx hne ht hu hv
  cases ht
  cases hu
  have hget (r : Reg) := congrArg (fun v : Vector Byte 16 => v[r]) hv
  have hresult : getV s y >>> 1 = getV s x >>> 1 :=
    (getV_setVFlag_result hx).symm.trans ((hget x).trans (getV_setVFlag_result hx))
  have hflag : lowBitFlag (getV s y) = lowBitFlag (getV s x) :=
    (getV_setVFlag_flag ..).symm.trans ((hget VF).trans (getV_setVFlag_flag ..))
  exact hne (eq_of_shiftRight_eq_of_lowBitFlag_eq hresult hflag).symm

/-- An instruction that answers one register write changes that register alone. -/
theorem exec_setV {i : Instr} {s : State} {x : Reg} {b : Byte} (h : exec i s = .next (setV s x b)) (r : Reg) :
    ∃ t, exec i s = .next t ∧ t = { s with v := t.v } ∧ getV t r = if r = x then b else getV s r :=
  ⟨setV s x b, h, rfl, getV_setV s x b r⟩

/-- Settles O20: each of the four is one register write. -/
theorem plainLoadsWriteOneRegister : Obligations.PlainLoadsWriteOneRegister := by
  intro s x y r kk
  refine ⟨exec_setV rfl r, ?addByte, exec_setV rfl r, exec_setV rfl r⟩
  case addByte =>
    obtain ⟨t, ht, hv, hr⟩ := exec_setV (i := .addByte x kk) (s := s) rfl r
    refine ⟨t, ht, hv, ?_⟩
    rw [hr, apply_ite BitVec.toNat, BitVec.toNat_add]

/-- An instruction that answers a result and a flag changes `V[x]` and `VF` alone, `VF` being the flag. -/
theorem exec_setVFlag {i : Instr} {s : State} {x : Reg} {b f : Byte} (h : exec i s = .next (setVFlag s x b f)) (r : Reg) :
    ∃ t, exec i s = .next t ∧ t = { s with v := t.v } ∧
      getV t r = if r = VF then f else if r = x then b else getV s r :=
  ⟨setVFlag s x b f, h, rfl, getV_setVFlag s x b f r⟩

/-- Settles O21: each of the three answers its result and the flag 0. -/
theorem logicWritesResultAndClearsVF : Obligations.LogicWritesResultAndClearsVF := fun _ _ _ r =>
  ⟨exec_setVFlag rfl r, exec_setVFlag rfl r, exec_setVFlag rfl r⟩

/-- What holds of the flag and of the result before they are written holds of `VF` and, for `x` other than 15, of `V[x]`
after. -/
theorem exec_setVFlag_transfer {i : Instr} {s : State} {x : Reg} {b f : Byte} {flagIs resultIs : Byte → Prop}
    (h : exec i s = .next (setVFlag s x b f)) (hflag : flagIs f) (hresult : resultIs b) :
    ∃ t, exec i s = .next t ∧ t = { s with v := t.v } ∧ flagIs (getV t VF) ∧ (x ≠ VF → resultIs (getV t x)) ∧
      ∀ r : Reg, r ≠ x → r ≠ VF → getV t r = getV s r := by
  refine ⟨setVFlag s x b f, h, rfl, ?_, fun hx => ?_, getV_setVFlag_of_ne⟩
  · rwa [getV_setVFlag_flag]
  · rwa [getV_setVFlag_result hx]

/-- Settles O22: the sum of the bytes wraps, and the flag is that the sum of their values exceeds 255. -/
theorem addRegistersGivesSumAndCarry : Obligations.AddRegistersGivesSumAndCarry := fun s x y =>
  exec_setVFlag_transfer (flagIs := (· = _)) (resultIs := fun b => b.toNat = _) rfl
    (flagByte_decide _) (BitVec.toNat_add (getV s x) (getV s y))

/-- Settles O23: the difference of the bytes wraps, and the flag is that nothing was borrowed. -/
theorem subtractGivesDifferenceAndNoBorrow : Obligations.SubtractGivesDifferenceAndNoBorrow := fun s x y =>
  exec_setVFlag_transfer (flagIs := (· = _)) (resultIs := fun b => (b.toNat : Int) = _) rfl
    (flagByte_decide _) (sub_toNat_emod (getV s x) (getV s y))

/-- Settles O24: as `SUB` with the operands exchanged, and the flag is 0 when they are equal. -/
theorem reversedSubtractFlagIsStrict : Obligations.ReversedSubtractFlagIsStrict := fun s x y =>
  exec_setVFlag_transfer (flagIs := (· = _)) (resultIs := fun b => (b.toNat : Int) = _) rfl
    (flagByte_decide _) (sub_toNat_emod (getV s y) (getV s x))

/-- Settles O25: both shift the source that `MODE` selects, and the flag is the bit shifted out. -/
theorem shiftsFollowTheMode : Obligations.ShiftsFollowTheMode := by
  intro s x y b hb
  obtain rfl : b = shiftSource s x y := hb.trans (shiftSource_eq s x y).symm
  constructor
  · exact exec_setVFlag_transfer (flagIs := fun f => f.toNat = _) (resultIs := fun a => a.toNat = _) rfl
      (lowBitFlag_toNat _) (shiftRight_one_toNat _)
  · exact exec_setVFlag_transfer (flagIs := fun f => f.toNat = _) (resultIs := fun a => a.toNat = _) rfl
      (highBitFlag_toNat _) (shiftLeft_one_toNat _)

/-- Settles O27: the masked draw is the one register write, whatever byte the draw is. -/
theorem randomIsMasked : Obligations.RandomIsMasked := by
  intro s x kk
  have hx : getV (countDraw (setV s x (drawnByte s &&& kk))) x = drawnByte s &&& kk := by
    rw [getV_countDraw, getV_setV_same]
  have hmasked : drawnByte s &&& kk &&& ~~~kk = 0 := by
    rw [BitVec.and_assoc, BitVec.and_not_self]
    exact BitVec.and_zero
  exact ⟨_, rfl, rfl, hx, (congrArg (· &&& ~~~kk) hx).trans hmasked, fun r hr => getV_setV_of_ne hr⟩

end Sys2Proof.Machine
end

section
/-! PROOFS. The index register and the memory instructions (family 42_index_and_memory.md): the index arithmetic, what a
store from `I` upward leaves at each address, and the registers after a block load. -/

namespace Sys2Proof.Machine

/-! ## Index arithmetic -/

/-- Settles O28: the 16-bit sum wraps, and five times a byte stays below 65536, so the glyph address is not reduced. -/
theorem indexArithmetic : Obligations.IndexArithmetic := by
  intro s x
  have hsum : (s.index + byteWord (getV s x)).toNat = (s.index.toNat + (getV s x).toNat) % 65536 := by
    rw [BitVec.toNat_add, byteWord_toNat]
  exact ⟨⟨setIndex s _, rfl, rfl, hsum⟩, ⟨setIndex s _, rfl, rfl, glyphAddress_toNat (getV s x)⟩⟩

/-! ## Stores from `I` upward -/

/-- At `I + k` a store from `I` upward leaves its `k`-th byte, if it does not go round the whole memory (R186). -/
theorem memRead_storeAtI_at {s : State} {bytes : List Byte} (hlen : bytes.length ≤ 4096) {k : Nat}
    (hk : k < bytes.length) : memRead (storeAtI s bytes).mem (s.index.toNat + k) = bytes[k] :=
  memRead_memWriteBytes_at bytes s.mem _ _ k hk hlen rfl

/-- A store of `n` bytes from `I` upward leaves every address alone that reduces to none of `I`, ..., `I + n - 1`. -/
theorem memRead_storeAtI_off {s : State} {bytes : List Byte} {n a : Nat} (hn : bytes.length = n)
    (ha : ∀ k < n, a % 4096 ≠ (s.index.toNat + k) % 4096) : memRead (storeAtI s bytes).mem a = memRead s.mem a :=
  memRead_memWriteBytes_off bytes s.mem _ a (hn ▸ ha)

@[simp] theorem bcdDigits_length (b : Byte) : (bcdDigits b).length = 3 := rfl

/-- The digits of a byte as numbers: each is below 256, so none is reduced (R183). -/
theorem bcdDigits_map_toNat (b : Byte) :
    (bcdDigits b).map BitVec.toNat = [b.toNat / 100, b.toNat / 10 % 10, b.toNat % 10] := by
  have hhundreds : b.toNat / 100 < 2 ^ 8 := by omega
  have htens : b.toNat / 10 % 10 < 2 ^ 8 := by omega
  have hones : b.toNat % 10 < 2 ^ 8 := by omega
  simp only [bcdDigits, List.map_cons, List.map_nil, BitVec.toNat_ofNat, Nat.mod_eq_of_lt hhundreds,
    Nat.mod_eq_of_lt htens, Nat.mod_eq_of_lt hones]

/-- Settles O29: the bytes stored from `I` upward are the three digits. -/
theorem bcdStoresThreeDigits : Obligations.BcdStoresThreeDigits := by
  intro s x
  have hdigit (k : Nat) (hk : k < 3) :
      (memRead (storeAtI s (bcdDigits (getV s x))).mem (s.index.toNat + k)).toNat =
        [(getV s x).toNat / 100, (getV s x).toNat / 10 % 10, (getV s x).toNat % 10][k] := by
    rw [memRead_storeAtI_at (by simp) (by simpa using hk)]
    simp only [← bcdDigits_map_toNat, List.getElem_map]
  exact ⟨_, rfl, rfl, hdigit 0 (by decide), hdigit 1 (by decide), hdigit 2 (by decide),
    fun a ha => memRead_storeAtI_off (bcdDigits_length _) ha⟩

/-- Settles O30: the `x + 1` bytes stored are `V0` to `Vx`, and the advance of `I` leaves memory alone. -/
theorem blockStoreWritesAndAdvances : Obligations.BlockStoreWritesAndAdvances := by
  intro s x
  exact ⟨_, exec_storeRegs x s, rfl, advanceIndex_toNat x _, fun k hk => memRead_blockStore hk rfl,
    fun a ha => memRead_storeAtI_off (regsThrough_length s x) fun k hk => ha k (Nat.le_of_lt_succ hk)⟩

/-! ## The block load -/

/-- A register after a block load that put `w` in the registers. -/
theorem getV_advanceIndex_setAllV (s : State) (x k : Reg) (w : Vector Byte 16) :
    getV (advanceIndex x (setAllV s w)) k = w[k] := rfl

/-- Settles O31: the frame is the instruction's row of R36. The loaded registers get a name `w`, since unfolding them at
each use is costly. -/
theorem blockLoadReadsAndAdvances : Obligations.BlockLoadReadsAndAdvances := by
  intro s x
  obtain ⟨w, hw, ht⟩ : ∃ w, w = loadedRegs s x ∧ exec (.loadRegs x) s = .next (advanceIndex x (setAllV s w)) :=
    ⟨_, rfl, rfl⟩
  refine ⟨_, ht, exec_frame ht, advanceIndex_toNat x _, fun k => ?_⟩
  rw [getV_advanceIndex_setAllV, hw, loadedRegs_getElem]

/-- Settles O32: with `I` back where the store began, the load (O31) reads each byte where the store (O30) put it. -/
theorem blockLoadUndoesBlockStore : Obligations.BlockLoadUndoesBlockStore := by
  intro s x w
  obtain ⟨t, ht, -, -, hstored, -⟩ := blockStoreWritesAndAdvances s x
  obtain ⟨u, hu, -, -, hloaded⟩ := blockLoadReadsAndAdvances { t with index := s.index, v := w } x
  refine ⟨t, u, ht, hu, fun k hk => ?_⟩
  rw [hloaded k, if_pos hk]
  exact hstored k hk

end Sys2Proof.Machine
end

section
/-! PROOFS. The framebuffer and the display instructions (family 43_display.md): what a whole sprite does to each cell, and
that the collision result keeps track of the cells that went off. -/

namespace Sys2Proof.Machine

/-! ## The cells of a drawn sprite -/

/-- The bit that a sprite drawn from column `x0` and row `y0` down has for the cell at row `y` and column `x`; 0 where the
cell lies outside the sprite. -/
def spriteBit (x0 y0 : Nat) (rows : List Byte) (y x : Nat) : Bool :=
  decide (x0 ≤ x ∧ x < x0 + 8 ∧ y0 ≤ y ∧ y < y0 + rows.length) && (rows.getD (y - y0) 0).getLsbD (7 - (x - x0))

theorem spriteBit_outside {x0 y0 y : Nat} {rows : List Byte} (hy : y < y0 ∨ y0 + rows.length ≤ y) (x : Nat) :
    spriteBit x0 y0 rows y x = false := by
  have : ¬(x0 ≤ x ∧ x < x0 + 8 ∧ y0 ≤ y ∧ y < y0 + rows.length) := by omega
  rw [spriteBit, decide_eq_false this, Bool.false_and]

/-- A sprite's bits are those of its first row and, from the screen row below, those of the rest. -/
theorem spriteBit_cons (x0 y0 : Nat) (b : Byte) (rest : List Byte) (y x : Nat) :
    spriteBit x0 y0 (b :: rest) y x = (spriteBit x0 y0 [b] y x ^^ spriteBit x0 (y0 + 1) rest y x) := by
  rcases Nat.lt_trichotomy y y0 with habove | rfl | hbelow
  · rw [spriteBit_outside (.inl habove), spriteBit_outside (.inl habove), spriteBit_outside (.inl (by omega)),
      Bool.xor_self]
  · rw [spriteBit_outside (y0 := y + 1) (.inl (by omega)), Bool.xor_false]
    simp [spriteBit]
  · obtain ⟨k, rfl⟩ := Nat.exists_eq_add_of_le (Nat.succ_le_of_lt hbelow)
    rw [spriteBit_outside (rows := [b]) (.inr hbelow), Bool.false_xor]
    have hrow : y0 + 1 + k - y0 = k + 1 := by omega
    have hin : y0 ≤ y0 + 1 + k ∧ y0 + 1 + k < y0 + (b :: rest).length ↔
        y0 + 1 ≤ y0 + 1 + k ∧ y0 + 1 + k < y0 + 1 + rest.length := by
      rw [List.length_cons]
      omega
    simp only [spriteBit, hin, hrow, List.getD_cons_succ, Nat.add_sub_cancel_left]

/-- A whole row of a sprite inverts the cells where the row has a 1. -/
theorem drawColumns_eight_cell (b : Byte) {py : Nat} (hpy : py < 32) (x0 : Nat) (d : Drawing) (y : Nat) {x : Nat}
    (hx : x < 64) : cell (drawColumns b py x0 8 d).1 y x = (cell d.1 y x ^^ spriteBit x0 py [b] y x) := by
  rw [drawColumns_cell b py x0 hpy 8 le_rfl d y x hx]
  by_cases hy : y = py
  · simp [spriteBit, hy]
  · rw [spriteBit_outside (by rw [List.length_singleton]; omega)]
    simp [hy]

/-- What the rows from screen row `py` down do to each cell (R202). -/
theorem drawRows_cell (x0 py : Nat) (rows : List Byte) (d : Drawing) {y x : Nat} (hy : y < 32) (hx : x < 64) :
    cell (drawRows x0 py rows d).1 y x = (cell d.1 y x ^^ spriteBit x0 py rows y x) := by
  induction rows generalizing py d with
  | nil => rw [drawRows, spriteBit_outside (by rw [List.length_nil]; omega), Bool.xor_false]
  | cons b rest ih =>
    unfold drawRows
    split
    next hbottom => rw [spriteBit_outside (.inl (by omega)), Bool.xor_false]
    next hpy => rw [ih, drawColumns_eight_cell b (by omega) x0 d y hx, Bool.xor_assoc, spriteBit_cons x0 py b rest]

theorem drawSprite_cell (f : Frame) (xs ys : Nat) (rows : List Byte) {y x : Nat} (hy : y < 32) (hx : x < 64) :
    cell (drawSprite f xs ys rows).1 y x = (cell f y x ^^ spriteBit (xs % 64) (ys % 32) rows y x) :=
  drawRows_cell _ _ rows (f, false) hy hx

/-- Drawing a sprite inverts the same cells every time, so a second drawing undoes the first (R206). -/
theorem drawSprite_twice (f : Frame) (xs ys : Nat) (rows : List Byte) :
    (drawSprite (drawSprite f xs ys rows).1 xs ys rows).1 = f :=
  frame_ext fun y x hy hx => by
    rw [drawSprite_cell _ _ _ _ hy hx, drawSprite_cell _ _ _ _ hy hx, Bool.xor_assoc, Bool.xor_self, Bool.xor_false]

/-! ## The collision result -/

/-- Some cell that is on in `f` is off in `g`. -/
def SomeCellWentOff (f g : Frame) : Prop :=
  ∃ y x, y < 32 ∧ x < 64 ∧ cell f y x = true ∧ cell g y x = false

/-- The collision result of a drawing that began with `f` is 1 exactly when some cell went from 1 to 0. -/
def CollisionTracks (f : Frame) (d : Drawing) : Prop := d.2 = true ↔ SomeCellWentOff f d.1

/-- Inverting a cell that is still as it was in `f` keeps track: it goes off exactly when it was on. -/
theorem drawPixel_tracks {f : Frame} {d : Drawing} {py px : Nat} (hpy : py < 32) (hpx : px < 64)
    (hsame : cell d.1 py px = cell f py px) (h : CollisionTracks f d) : CollisionTracks f (drawPixel py px d) := by
  have hown : cell (drawPixel py px d).1 py px = !cell f py px := by
    rw [drawPixel_cell, hsame]
    simp [hpy, hpx]
  have hother {y x : Nat} (hne : ¬(y = py ∧ x = px)) : cell (drawPixel py px d).1 y x = cell d.1 y x := by
    have : ¬(y = py ∧ x = px ∧ y < 32 ∧ x < 64) := fun ⟨hy, hx, _⟩ => hne ⟨hy, hx⟩
    rw [drawPixel_cell, decide_eq_false this, Bool.xor_false]
  have hresult : (drawPixel py px d).2 = true ↔ d.2 = true ∨ cell f py px = true := by
    rw [← hsame]
    exact Bool.or_eq_true_iff
  unfold CollisionTracks at h ⊢
  rw [hresult, h]
  constructor
  · rintro (⟨y, x, hy, hx, hon, hoff⟩ | hon)
    · refine ⟨y, x, hy, hx, hon, (hother ?_).trans hoff⟩
      rintro ⟨rfl, rfl⟩
      simp [hon, hoff] at hsame
    · exact ⟨py, px, hpy, hpx, hon, by rw [hown, hon]; rfl⟩
  · rintro ⟨y, x, hy, hx, hon, hoff⟩
    by_cases hp : y = py ∧ x = px
    · obtain ⟨rfl, rfl⟩ := hp
      exact .inr hon
    · exact .inl ⟨y, x, hy, hx, hon, (hother hp).symm.trans hoff⟩

/-- The columns of a sprite row keep track where the cells they reach are still as they were in `f`. -/
theorem drawColumns_tracks {f : Frame} (b : Byte) {py x0 : Nat} (hpy : py < 32) (bits : Nat) (hb : bits ≤ 8) (d : Drawing)
    (hsame : ∀ x, x0 + (8 - bits) ≤ x → cell d.1 py x = cell f py x) (h : CollisionTracks f d) :
    CollisionTracks f (drawColumns b py x0 bits d) := by
  induction bits generalizing d with
  | zero => exact h
  | succ bits ih =>
    unfold drawColumns
    split
    next hedge => exact h
    next hpx =>
      refine ih (by omega) _ (fun x hx => ?untouched) ?pixel
      case untouched =>
        have hne : ¬(py = py ∧ x = x0 + (7 - bits) ∧ py < 32 ∧ x < 64) := by omega
        rw [drawBit_cell, decide_eq_false hne, Bool.and_false, Bool.xor_false, hsame x (by omega)]
      case pixel =>
        split
        · exact drawPixel_tracks hpy (by omega) (hsame _ (by omega)) h
        · exact h

/-- The sprite rows keep track where the screen rows they reach are still as they were in `f`. -/
theorem drawRows_tracks {f : Frame} (x0 py : Nat) (rows : List Byte) (d : Drawing)
    (hsame : ∀ y x, py ≤ y → cell d.1 y x = cell f y x) (h : CollisionTracks f d) :
    CollisionTracks f (drawRows x0 py rows d) := by
  induction rows generalizing py d with
  | nil => exact h
  | cons b rest ih =>
    unfold drawRows
    split
    next hbottom => exact h
    next hpy =>
      refine ih (py + 1) _ (fun y x hy => ?untouched) ?row
      case untouched =>
        by_cases hx : x < 64
        · rw [drawColumns_eight_cell b (by omega) x0 d y hx, spriteBit_outside (.inr hy), Bool.xor_false,
            hsame y x (by omega)]
        · rw [cell_outside _ _ _ (by omega), cell_outside _ _ _ (by omega)]
      case row => exact drawColumns_tracks b (by omega) 8 le_rfl d (fun x _ => hsame py x le_rfl) h

theorem drawSprite_collision (f : Frame) (xs ys : Nat) (rows : List Byte) :
    (drawSprite f xs ys rows).2 = true ↔ SomeCellWentOff f (drawSprite f xs ys rows).1 := by
  refine drawRows_tracks _ _ rows (f, false) (fun _ _ _ => rfl) ⟨nofun, ?_⟩
  rintro ⟨y, x, -, -, hon, hoff⟩
  exact absurd (hon.symm.trans hoff) (by decide)

/-- The second of two drawings of a sprite collides where the first turned a cell on (R206). -/
theorem drawSprite_twice_collision (f : Frame) (xs ys : Nat) (rows : List Byte) :
    (drawSprite (drawSprite f xs ys rows).1 xs ys rows).2 = true ↔
      ∃ y x, y < 32 ∧ x < 64 ∧ cell f y x = false ∧ cell (drawSprite f xs ys rows).1 y x = true := by
  rw [drawSprite_collision, drawSprite_twice]
  simp only [SomeCellWentOff, and_comm (b := cell f _ _ = false)]

/-- Settles O35: the cells by recursion over the rows and columns, the result because no cell is inverted twice. -/
theorem spriteIsXoredAndClipped : Obligations.SpriteIsXoredAndClipped := fun f xs ys rows =>
  ⟨fun _ _ => drawSprite_cell f xs ys rows, drawSprite_collision f xs ys rows⟩

/-! ## DRW -/

/-- What `DRW` draws: the `n` bytes at `I`, from the start in `V[x]` and `V[y]` (R204). -/
def drwDrawing (x y : Reg) (n : Nibble) (s : State) : Drawing :=
  drawSprite s.fb (getV s x).toNat (getV s y).toNat (spriteRows s n)

/-- A drawing put in the state: its framebuffer, its collision result in `VF`, and `DIRTY` (R204). -/
def showDrawing (d : Drawing) (s : State) : State := setDirty (setV (setFb (setV s VF 0) d.1) VF (flagByte d.2)) true

theorem exec_drw (x y : Reg) (n : Nibble) (s : State) :
    exec (.drw x y n) s = .next (showDrawing (drwDrawing x y n s) s) := rfl

theorem getV_showDrawing_flag (d : Drawing) (s : State) : getV (showDrawing d s) VF = flagByte d.2 :=
  getV_setV_same _ VF _

theorem getV_showDrawing_of_ne {d : Drawing} {s : State} {r : Reg} (hr : r ≠ VF) :
    getV (showDrawing d s) r = getV s r :=
  (getV_setV_of_ne hr).trans (getV_setV_of_ne (s := s) hr)

theorem flagByte_eq_one_iff (c : Bool) : flagByte c = 1 ↔ c = true := by cases c <;> decide

theorem flagByte_eq_zero_iff (c : Bool) : flagByte c = 0 ↔ ¬c = true := by cases c <;> decide

theorem spriteRows_length (s : State) (n : Nibble) : (spriteRows s n).length = n.toNat := memReadBytes_length _ _ _

theorem spriteRows_getD {s : State} {n : Nibble} {k : Nat} (hk : k < n.toNat) :
    (spriteRows s n).getD k 0 = memRead s.mem (s.index.toNat + k) := by
  have hlt : k < (spriteRows s n).length := by rwa [spriteRows_length]
  rw [List.getD_eq_getElem _ _ hlt]
  exact memReadBytes_getElem s.mem _ _ k hlt

/-- The bits of the sprite that `DRW` draws, from memory. -/
theorem spriteBit_spriteRows (x0 y0 : Nat) (s : State) (n : Nibble) (y x : Nat) :
    spriteBit x0 y0 (spriteRows s n) y x =
      (decide (x0 ≤ x ∧ x < x0 + 8 ∧ y0 ≤ y ∧ y < y0 + n.toNat) &&
        (memRead s.mem (s.index.toNat + (y - y0))).getLsbD (7 - (x - x0))) := by
  rw [spriteBit, spriteRows_length]
  by_cases hin : x0 ≤ x ∧ x < x0 + 8 ∧ y0 ≤ y ∧ y < y0 + n.toNat
  · rw [spriteRows_getD (by omega)]
  · rw [decide_eq_false hin, Bool.false_and, Bool.false_and]

/-- Settles O36: the cells and the flag are those of the sprite (O35), whose rows are the bytes at `I`. -/
theorem drawWritesCellsFlagAndDirty : Obligations.DrawWritesCellsFlagAndDirty := by
  intro s x y n
  refine ⟨_, exec_drw x y n s, rfl, fun r => getV_showDrawing_of_ne, fun py px hpy hpx => ?cells, fun hoff => ?hit,
    fun hkept => ?miss⟩
  case cells =>
    rw [← spriteBit_spriteRows]
    exact drawSprite_cell _ _ _ _ hpy hpx
  case hit =>
    rw [getV_showDrawing_flag, flagByte_eq_one_iff]
    exact (drawSprite_collision _ _ _ _).mpr hoff
  case miss =>
    rw [getV_showDrawing_flag, flagByte_eq_zero_iff]
    intro hhit
    obtain ⟨py, px, hpy, hpx, hon, hoff⟩ := (drawSprite_collision _ _ _ _).mp hhit
    exact absurd ((hkept py px hpy hpx hon).symm.trans hoff) (by decide)

/-- Settles O37: with the registers back, the second draw is of the same sprite at the same place, so it undoes the first,
and a cell that it turns off is one that the first turned on. -/
theorem drawingTwiceRestoresTheFrame : Obligations.DrawingTwiceRestoresTheFrame := by
  intro s x y n
  refine ⟨_, _, exec_drw x y n s, exec_drw x y n _, drawSprite_twice s.fb _ _ (spriteRows s n), ?_⟩
  rw [getV_showDrawing_flag, flagByte_eq_one_iff]
  exact drawSprite_twice_collision s.fb _ _ (spriteRows s n)

/-- Settles O34: the blank framebuffer has every cell off. -/
theorem clearScreenTurnsEveryCellOff : Obligations.ClearScreenTurnsEveryCellOff := fun _ =>
  ⟨_, rfl, rfl, fun y x _ _ => cell_blankFrame y x⟩

end Sys2Proof.Machine
end

section
/-! PROOFS. The timers and the keypad (family 44_timers_and_keys.md): what `LD Vx, K` does with and without a held key, the
key skips, and the timer that a cycle's timer step leaves. -/

namespace Sys2Proof.Machine

/-! ## A completed cycle -/

/-- A completed cycle is the timer step of what the execution left (R120). -/
theorem step_of_exec_running {s t : State} {i : Instr} (hrun : s.status = .running)
    (hi : decodeWord (fetchWord s) = .ok i) (he : exec i (advancePc s) = .next t) (ht : t.status = .running) :
    step s = .next (timerStep t) := by
  rw [step_of_exec hrun hi he, endCycle_running s t ht]

/-! ## The wait for a key -/

theorem exec_ldVxK_of_held {s : State} {k : Fin 16} (x : Reg) (hk : firstKey s = some k) :
    exec (.ldVxK x) s = .next (setV s x (indexByte k)) := by
  simp only [exec, execLdVxK, hk]

theorem exec_ldVxK_of_none_held {s : State} (x : Reg) (hk : firstKey s = none) :
    exec (.ldVxK x) s = .next (rewindPc s) := by
  simp only [exec, execLdVxK, hk]

/-- The rewind of `LD Vx, K` undoes the advance of its fetch, around the top of the 16 bits too (R225). -/
@[simp] theorem rewindPc_advancePc (s : State) : rewindPc (advancePc s) = s := by
  simp only [rewindPc, advancePc, setPc, BitVec.add_sub_cancel]

/-- Settles O19: the scan finds the least held key; where it finds none, the rewind gives the state before the fetch. -/
theorem waitForKeyTakesTheLeastKeyOrRepeats : Obligations.WaitForKeyTakesTheLeastKeyOrRepeats := by
  constructor
  · intro s x k hheld hleast
    have hk : firstKey s = some k := (firstKey_eq_some s k).mpr ⟨hheld, hleast⟩
    refine ⟨_, exec_ldVxK_of_held x hk, rfl, ?_, fun r => getV_setV_of_ne⟩
    rw [getV_setV_same, indexByte_toNat]
  · intro s x hrun hi hnone
    have hk : firstKey (advancePc s) = none := (firstKey_eq_none _).mpr hnone
    rw [step_of_exec_running hrun hi (exec_ldVxK_of_none_held x hk) hrun, rewindPc_advancePc]

/-! ## The key skips -/

/-- The key a skip consults is the one that `V[x] mod 16` numbers (R226). -/
theorem keyHeld_of_val_eq {s : State} {x : Reg} {k : Fin 16} (hk : k.val = (getV s x).toNat % 16) :
    keyHeld s x = s.key[k] := by
  obtain rfl : keyIndex s x = k := Fin.ext hk.symm
  rfl

/-- Settles O18: each of the two is a skip, `SKP` on the held key and `SKNP` on its negation. -/
theorem keySkipsConsultTheLatch : Obligations.KeySkipsConsultTheLatch := by
  intro s x k hk
  rw [← keyHeld_of_val_eq hk]
  refine ⟨exec_skip rfl, ?sknp⟩
  case sknp =>
    simpa only [Bool.not_eq_true', ← Bool.not_eq_true, ite_not] using exec_skip (i := .sknp x) (s := s) rfl

/-! ## The timer writes -/

theorem timerStep_dt_toNat (s : State) :
    (timerStep s).dt.toNat = if 1 ≤ s.acc + 60 / s.cps then s.dt.toNat - 1 else s.dt.toNat := by
  rw [timerStep_dt, apply_ite BitVec.toNat, countDown_toNat]

theorem timerStep_st_toNat (s : State) :
    (timerStep s).st.toNat = if 1 ≤ s.acc + 60 / s.cps then s.st.toNat - 1 else s.st.toNat := by
  rw [timerStep_st, apply_ite BitVec.toNat, countDown_toNat]

/-- Settles O38: neither write touches `STATUS`, `ACC` or `CPS`, so the cycle ends with the timer step on the value
written. -/
theorem timerWritesPrecedeTheTick : Obligations.TimerWritesPrecedeTheTick := by
  refine ⟨fun s x => ⟨⟨_, rfl, rfl⟩, ⟨_, rfl, rfl⟩⟩, fun s x hrun hi => ?dt, fun s x hrun hi => ?st⟩
  case dt => exact ⟨_, step_of_exec_running hrun hi rfl hrun, timerStep_dt_toNat _⟩
  case st => exact ⟨_, step_of_exec_running hrun hi rfl hrun, timerStep_st_toNat _⟩

end Sys2Proof.Machine
end

section
/-! PROOFS. Events, timers and the host interface (family 60_exceptions.md): the ends of a cycle, the timer step over many
cycles, and what each host operation writes. -/

namespace Sys2Proof.Machine

/-! ## Every execution and every step answers a next state -/

theorem exec_next (i : Instr) (s : State) : ∃ t, exec i s = .next t := by
  cases i <;> exact ⟨_, rfl⟩

theorem step_next (s : State) : ∃ t, step s = .next t := by
  cases hs : s.status with
  | fatal e => exact ⟨s, step_fatal s e hs⟩
  | running =>
    cases hd : decodeWord (fetchWord s) with
    | error r => exact ⟨_, step_of_reject s r hs hd⟩
    | ok i =>
      obtain ⟨u, he⟩ := exec_next i (advancePc s)
      exact ⟨_, step_of_exec hs hd he⟩

/-- Settles O10: no meaning of an instruction is a refusal, and a step is an execution, a record or nothing at all. -/
theorem everyStepAnswersANextState : Obligations.EveryStepAnswersANextState := ⟨step_next, exec_next⟩

/-! ## The ends of a cycle -/

/-- Decoding a word has one way to reject it: as unrecognised, by that word (R97). -/
theorem eq_unrecognised_of_decodeWord_error {w : Word} {r : Reject} (h : decodeWord w = .error r) :
    r = .unrecognised w := by
  cases hd : decodeInstr w with
  | none => exact Except.error.inj (h.symm.trans ((decodeWord_eq_unrecognised_iff w).mpr hd))
  | some i => cases h.symm.trans ((decodeWord_eq_ok_iff w i).mpr hd)

/-- No instruction writes the diagnostic sink (R244). -/
theorem exec_diag {i : Instr} {s t : State} (h : exec i s = .next t) : t.diag = s.diag := by
  rw [exec_frame h]
  cases i <;> rfl

/-- An instruction raises StackUnderflow, raises StackOverflow, or leaves `STATUS` as it was (R240). -/
theorem exec_status_cases {i : Instr} {s t : State} (h : exec i s = .next t) :
    (i = .ret ∧ s.stack = [] ∧ t.status = .fatal .stackUnderflow) ∨
    (∃ nnn, i = .call nnn ∧ stackFull s = true ∧ t.status = .fatal .stackOverflow) ∨
    t.status = s.status := by
  cases i with
  | ret =>
    rcases exec_ret_cases h with ⟨a, rest, -, rfl⟩ | ⟨hempty, rfl⟩
    · exact .inr (.inr rfl)
    · exact .inl ⟨rfl, hempty, rfl⟩
  | call nnn =>
    rcases exec_call_cases h with ⟨-, rfl⟩ | ⟨hfull, rfl⟩
    · exact .inr (.inr rfl)
    · exact .inr (.inl ⟨nnn, rfl, hfull, rfl⟩)
  | _ =>
    rw [exec_frame h]
    exact .inr (.inr rfl)

/-- Settles O11: a word that does not decode sends the record, and one that does ends as its instruction leaves
`STATUS`. -/
theorem eachCycleHasAtMostOneEvent : Obligations.EachCycleHasAtMostOneEvent := by
  intro s t hrun hstep
  cases hd : decodeWord (fetchWord s) with
  | error r =>
    rw [unrecognisedWordOnlyAdvances s r hrun hd] at hstep
    cases hstep
    exact .inr (.inr (.inl ⟨congrArg _ (eq_unrecognised_of_decodeWord_error hd), (timerStep_status _).trans hrun,
      timerStep_diag _⟩))
  | ok i =>
    obtain ⟨u, he⟩ := exec_next i (advancePc s)
    rcases exec_status_cases he with ⟨rfl, hempty, hu⟩ | ⟨nnn, rfl, hfull, hu⟩ | hu
    · rw [step_of_exec_fatal hrun hd he hu] at hstep
      cases hstep
      exact .inl ⟨rfl, hempty, rfl⟩
    · rw [step_of_exec_fatal hrun hd he hu] at hstep
      cases hstep
      obtain ⟨d, hdepth, hlen⟩ := (stackFull_iff _).mp hfull
      exact .inr (.inl ⟨nnn, d, rfl, hdepth, hlen, rfl⟩)
    · have hu' : u.status = .running := hu.trans hrun
      have hdiag : u.diag = s.diag := exec_diag (s := advancePc s) he
      rw [step_of_exec_running hrun hd he hu'] at hstep
      cases hstep
      exact .inr (.inr (.inr ⟨i, rfl, (timerStep_status u).trans hu', (timerStep_diag u).trans hdiag⟩))

/-! ## The timer step -/

/-- The timer step with a tick (R255). -/
theorem timerStep_of_tick {s : State} (h : 1 ≤ s.acc + 60 / s.cps) :
    timerStep s = { s with acc := s.acc + 60 / s.cps - 1, dt := countDown s.dt, st := countDown s.st } := by
  rw [timerStep_eq, timerStep_acc, timerStep_dt, timerStep_st, if_pos h, if_pos h, if_pos h]

/-- The timer step without a tick (R255). -/
theorem timerStep_of_no_tick {s : State} (h : s.acc + 60 / s.cps < 1) :
    timerStep s = { s with acc := s.acc + 60 / s.cps } := by
  have hno := not_le.mpr h
  rw [timerStep_eq, timerStep_acc, timerStep_dt, timerStep_st, if_neg hno, if_neg hno, if_neg hno]

/-- Settles O39: with and without a tick; each timer counts down as a natural number. -/
theorem timerStepTicksOnce : Obligations.TimerStepTicksOnce := by
  refine fun s => ⟨fun htick => ?_, timerStep_of_no_tick⟩
  rw [timerStep_of_tick htick]
  exact ⟨rfl, countDown_toNat s.dt, countDown_toNat s.st⟩

/-! ## Rates of at least 60 -/

theorem State.AccBounded.cps_pos {s : State} (hs : s.AccBounded) : 0 < s.cps := by
  obtain ⟨hcps, -, -⟩ := hs
  linarith

/-- With a rate of at least 60 the increment is at most 1, so one tick brings `ACC` below 1 again (R257 (a)). -/
theorem timerStep_keeps_accBounded (s : State) (hs : s.AccBounded) : (timerStep s).AccBounded := by
  have hcpsPos := hs.cps_pos
  obtain ⟨hcps, hacc, hacc1⟩ := hs
  have hinc : 60 / s.cps ≤ 1 := (div_le_one hcpsPos).mpr hcps
  refine ⟨(timerStep_cps s).symm ▸ hcps, timerStep_acc_nonneg s hacc hcpsPos, ?_⟩
  rw [timerStep_acc]
  split
  · linarith
  · exact not_le.mp ‹_›

/-- Settles O45: only the timer step of a cycle writes `ACC`, and it keeps the bound. -/
theorem stepKeepsTheAccumulatorBounded : Obligations.StepKeepsTheAccumulatorBounded := by
  intro s t hs hstep
  refine step_keeps (P := State.AccBounded) (fun _ hs => hs) ?exec (fun _ _ _ hs => hs) timerStep_keeps_accBounded
    (fun _ _ hs => hs) hstep hs
  case exec =>
    intro i u w he hu
    obtain ⟨hacc, -, -, hcps, -, -⟩ := exec_hostInputs he
    rwa [State.AccBounded, hacc, hcps]

/-- Settles O40, by induction on the number of timer steps: a tick takes 1 off `ACC`, so it takes 1 off the floor of what is
to come and leaves its fractional part, and without a tick both stay. -/
theorem ticksAreTheFloorOfTheRate : Obligations.TicksAreTheFloorOfTheRate := by
  intro s m hs
  induction m generalizing s with
  | zero =>
    obtain ⟨-, hacc, hacc1⟩ := hs
    simp [Nat.floor_eq_zero.mpr hacc1, Int.fract_eq_self.mpr ⟨hacc, hacc1⟩]
  | succ m ih =>
    obtain ⟨hdt, hst, hfract⟩ := ih (timerStep s) (timerStep_keeps_accBounded s hs)
    rw [Function.iterate_succ_apply, hdt, hst, hfract, Nat.cast_succ]
    rcases le_or_gt 1 (s.acc + 60 / s.cps) with htick | hno
    · have hsum : s.acc + 60 / s.cps - 1 + m * (60 / s.cps) = s.acc + (m + 1) * (60 / s.cps) - 1 := by ring
      have hfloor : 1 ≤ ⌊s.acc + (m + 1) * (60 / s.cps)⌋₊ := by
        have hcps := hs.cps_pos
        have hrest : 0 ≤ m * (60 / s.cps) := by positivity
        exact Nat.floor_pos.mpr (by linarith)
      simp only [timerStep_of_tick htick, hsum, countDown_toNat, Nat.floor_sub_one, Int.fract_sub_one,
        tsub_tsub_tsub_cancel_right hfloor, and_self]
    · have hsum : s.acc + 60 / s.cps + m * (60 / s.cps) = s.acc + (m + 1) * (60 / s.cps) := by ring
      simp only [timerStep_of_no_tick hno, hsum, and_self]

/-! ## Rates below 60 -/

/-- Settles O41, by induction on the number of timer steps: the increment exceeds 1, so each of them ticks and leaves `ACC`
not negative. -/
theorem slowRatesTickEveryCycle : Obligations.SlowRatesTickEveryCycle := by
  intro s m hcps hslow hacc
  induction m generalizing s with
  | zero => simp
  | succ m ih =>
    have hinc : 1 < 60 / s.cps := (one_lt_div hcps).mpr hslow
    have htick : 1 ≤ s.acc + 60 / s.cps := by linarith
    have hacc' : 0 ≤ s.acc + 60 / s.cps - 1 := by linarith
    rw [Function.iterate_succ_apply, timerStep_of_tick htick]
    obtain ⟨hm, hdt, hst⟩ := ih { s with acc := _, dt := countDown s.dt, st := countDown s.st } hcps hslow hacc'
    rw [hm, hdt, hst, countDown_toNat, countDown_toNat, Nat.cast_succ]
    exact ⟨by ring, by omega, by omega⟩

/-! ## The host operations -/

theorem hostSetKey_of_lt {code : Nat} (pressed : Bool) (s : State) (h : code < 16) :
    hostSetKey code pressed s = (setKeys s (s.key.set code pressed h), .done) := dif_pos h

theorem hostSetKey_of_ge {code : Nat} (pressed : Bool) (s : State) (h : 16 ≤ code) :
    hostSetKey code pressed s = (s, .keyCodeOutOfRange code) := dif_neg (not_lt.mpr h)

theorem hostSetCycleRate_of_pos {r : Rat} (s : State) (h : 0 < r) :
    hostSetCycleRate (some r) s = (setCps s r, .done) := if_pos h

theorem hostSetCycleRate_of_not_pos {rate : Option Rat} (s : State) (h : ∀ r, rate = some r → r ≤ 0) :
    hostSetCycleRate rate s = (s, .badCycleRate rate) := by
  cases rate with
  | none => rfl
  | some r => exact if_neg (not_lt.mpr (h r rfl))

theorem hostLoadProgram_of_le {bytes : List Byte} (s : State) (h : bytes.length ≤ 3584) :
    hostLoadProgram bytes s = (setMem (hostReset s) (memWriteBytes (hostReset s).mem loadAddress bytes), .done) := if_pos h

theorem hostLoadProgram_of_gt {bytes : List Byte} (s : State) (h : 3584 < bytes.length) :
    hostLoadProgram bytes s = (s, .programTooLong bytes.length) := if_neg (not_le.mpr h)

theorem hostRunOneCycle_fatal {s : State} {e : FatalEvent} (h : s.status = .fatal e) :
    hostRunOneCycle s = (s, .halted e s.pc) := by
  simp only [hostRunOneCycle, step_fatal s e h, cycleReply, h]

theorem hostGetDisplayCell_inside {x y : Nat} (s : State) (hx : x < 64) (hy : y < 32) :
    hostGetDisplayCell x y s = .bit (cell s.fb y x) := if_pos ⟨hy, hx⟩

theorem hostGetDisplayCell_outside {x y : Nat} (s : State) (h : 64 ≤ x ∨ 32 ≤ y) :
    hostGetDisplayCell x y s = .noSuchCell := if_neg (by omega)

theorem hostSetKey_frame (code : Nat) (pressed : Bool) (s : State) :
    (hostSetKey code pressed s).1 = { s with key := (hostSetKey code pressed s).1.key } := by
  rcases lt_or_ge code 16 with h | h
  · rw [hostSetKey_of_lt pressed s h]
    rfl
  · rw [hostSetKey_of_ge pressed s h]

theorem hostSetCycleRate_frame (rate : Option Rat) (s : State) :
    (hostSetCycleRate rate s).1 = { s with cps := (hostSetCycleRate rate s).1.cps } := by
  by_cases h : ∃ r, rate = some r ∧ 0 < r
  · obtain ⟨r, rfl, hr⟩ := h
    rw [hostSetCycleRate_of_pos s hr]
    rfl
  · rw [hostSetCycleRate_of_not_pos s fun r hr => not_lt.mp fun hpos => h ⟨r, hr, hpos⟩]

/-- Beside a reset, a load-program and a cycle, a host operation writes `KEY`, `DIRTY`, the strap and `CPS` alone, and
`DIRTY` only if it is clear-dirty (R264 to R271). -/
theorem hostOp_frame {op : HostOp} (s : State) (hreset : op ≠ .reset) (hload : ∀ bytes, op ≠ .loadProgram bytes)
    (hcycle : op ≠ .runOneCycle) :
    (hostOp op s).1 = { s with
      key := (hostOp op s).1.key
      dirty := if op = .clearDirty then false else s.dirty
      modeStrap := (hostOp op s).1.modeStrap
      cps := (hostOp op s).1.cps } := by
  cases op with
  | reset => exact absurd rfl hreset
  | loadProgram bytes => exact absurd rfl (hload bytes)
  | runOneCycle => exact absurd rfl hcycle
  | setKey code pressed =>
    rw [hostOp, hostSetKey_frame]
    rfl
  | setCycleRate rate =>
    rw [hostOp, hostSetCycleRate_frame]
    rfl
  | _ => rfl

/-- Settles O9: the halted step answers the same state, and the reply is read off it. -/
theorem haltedCoreDoesNothing : Obligations.HaltedCoreDoesNothing := fun s e h =>
  ⟨step_fatal s e h, hostRunOneCycle_fatal h⟩

/-- Settles O12: no host operation but those two writes `STATUS`, nor does the cycle of a halted core. -/
theorem onlyResetLeavesTheHaltedState : Obligations.OnlyResetLeavesTheHaltedState := by
  intro s e h
  refine ⟨fun op hreset hload => ?stays, rfl, fun bytes hlen => ?loaded, fun bytes hlen => ?refused⟩
  case stays =>
    by_cases hcycle : op = .runOneCycle
    · rw [hcycle, hostOp, hostRunOneCycle_fatal h]
      exact h
    · rw [hostOp_frame s hreset hload hcycle]
      exact h
  case loaded =>
    rw [hostOp, hostLoadProgram_of_le s hlen]
    rfl
  case refused => rw [hostOp, hostLoadProgram_of_gt s hlen]

/-- Settles O57: the latch is the array of keys with one entry set. -/
theorem setKeyWritesOneLatchEntry : Obligations.SetKeyWritesOneLatchEntry := by
  intro s code pressed
  refine ⟨fun h => ⟨_, hostSetKey_of_lt pressed s h, rfl, fun k => ?_⟩, hostSetKey_of_ge pressed s⟩
  rw [setKeys_key, Fin.getElem_fin, Vector.getElem_set]
  simp only [eq_comm, Fin.getElem_fin]

/-- Settles O58: the reads answer from the state they leave, and the frame of the host operations holds no cell and no
timer. -/
theorem hostReadsAndClearDirty : Obligations.HostReadsAndClearDirty := by
  constructor
  · intro s x y
    refine ⟨fun hx hy => ?_, fun h => ?_, rfl, rfl, rfl, rfl⟩
    · rw [hostOp, hostGetDisplayCell_inside s hx hy]
    · rw [hostOp, hostGetDisplayCell_outside s h]
  · intro s op hreset hload hcycle
    rw [hostOp_frame s hreset hload hcycle]
    exact ⟨rfl, rfl, rfl, fun hclear => if_neg hclear⟩

/-- Settles O59: a reset samples the strap, and the rate is tested for being a positive rational. -/
theorem modeStrapAndCycleRate : Obligations.ModeStrapAndCycleRate :=
  ⟨fun _ _ => ⟨rfl, rfl⟩, fun s _ => hostSetCycleRate_of_pos s, fun s _ => hostSetCycleRate_of_not_pos s⟩

end Sys2Proof.Machine
end

section
/-! PROOFS. Reset and the host's hazards (family 70_reset_and_hazards.md): the legal states under every host operation, what
reset and load-program leave in memory, and the cycle of a parked state. -/

namespace Sys2Proof.Machine

/-! ## The legal states under the host operations -/

theorem hostLoadProgram_inv (bytes : List Byte) (s : State) (hs : s.Inv) : (hostLoadProgram bytes s).1.Inv := by
  rcases Nat.lt_or_ge 3584 bytes.length with hlong | hfits
  · rw [hostLoadProgram_of_gt s hlong]
    exact hs
  · rw [hostLoadProgram_of_le s hfits]
    have hreset := hostReset_inv s hs.cps
    exact ⟨memWriteBytes_wf _ _ _ hreset.memory, hreset.stack, hreset.acc, hreset.cps⟩

theorem hostRunOneCycle_of_step {s t : State} (h : step s = .next t) : hostRunOneCycle s = (t, cycleReply t) := by
  simp only [hostRunOneCycle, h]

theorem hostRunOneCycle_inv (s : State) (hs : s.Inv) : (hostRunOneCycle s).1.Inv := by
  obtain ⟨t, ht⟩ := step_next s
  rw [hostRunOneCycle_of_step ht]
  exact stepKeepsTheStateLegal s t hs ht

/-- A rate that is not positive is refused, so `CPS` stays positive (R271). -/
theorem hostSetCycleRate_cps_pos (rate : Option Rat) (s : State) (hs : 0 < s.cps) :
    0 < (hostSetCycleRate rate s).1.cps := by
  cases rate with
  | none => exact hs
  | some r =>
    rcases lt_or_ge 0 r with hr | hr
    · rwa [hostSetCycleRate_of_pos s hr]
    · rwa [hostSetCycleRate_of_not_pos s (by simpa using hr)]

/-- The reads and the remaining writes touch no field that `State.Inv` speaks of (R264, R266 to R270). -/
theorem hostOp_keeps_inv (op : HostOp) (s : State) (hs : s.Inv) : (hostOp op s).1.Inv := by
  cases op with
  | reset => exact hostReset_inv s hs.cps
  | loadProgram bytes => exact hostLoadProgram_inv bytes s hs
  | runOneCycle => exact hostRunOneCycle_inv s hs
  | setKey code pressed =>
    rw [hostOp, hostSetKey_frame]
    exact ⟨hs.memory, hs.stack, hs.acc, hs.cps⟩
  | setCycleRate rate =>
    rw [hostOp, hostSetCycleRate_frame]
    exact ⟨hs.memory, hs.stack, hs.acc, hostSetCycleRate_cps_pos rate s hs.cps⟩
  | getDisplayCell | isDisplayDirty | getSoundTimer | getDelayTimer => exact hs
  | clearDirty | setMode => exact ⟨hs.memory, hs.stack, hs.acc, hs.cps⟩

/-- Settles O44: by induction on `Reachable`, from the legal constructions through the host operations. -/
theorem hostOperationsKeepTheStateLegal : Obligations.HostOperationsKeepTheStateLegal := by
  refine ⟨hostOp_keeps_inv, fun s hs => ?_⟩
  induction hs with
  | constructed cfg strap rate s h => exact constructionIsLegal.2 cfg strap rate s h
  | operated op s _ ih => exact hostOp_keeps_inv op s ih

/-! ## Reset (R280) -/

theorem memRead_fontMemory_font (font : Vector Byte 80) {a : Nat} (ha : a < 80) :
    memRead (fontMemory font) a = font[a] := by
  have hlen : font.toList.length = 80 := Vector.length_toList
  rw [fontMemory, memRead_memWriteBytes_at font.toList [] 0 a a (by omega) (by omega) (by omega), Vector.getElem_toList]

theorem memRead_fontMemory_rest (font : Vector Byte 80) {a : Nat} (ha : 80 ≤ a) (ha' : a < 4096) :
    memRead (fontMemory font) a = 0 := by
  have hlen : font.toList.length = 80 := Vector.length_toList
  have hunlisted : unlistedByte a = 0 := dif_neg (not_lt.mpr ha)
  rw [fontMemory, memRead_memWriteBytes_off font.toList [] 0 a (by omega), memRead_nil, Nat.mod_eq_of_lt ha', hunlisted]

theorem getV_hostReset (s : State) (r : Reg) : getV (hostReset s) r = 0 :=
  Vector.getElem_replicate r.isLt

theorem hostReset_key (s : State) (k : Fin 16) : (hostReset s).key[k] = false :=
  Vector.getElem_replicate k.isLt

/-- Settles O55: memory is the font's, the arrays are constant, and the other fields are read off the reset. -/
theorem resetLeavesTheDecidedState : Obligations.ResetLeavesTheDecidedState := fun s =>
  ⟨hostReset s, rfl, rfl, fun _ => memRead_fontMemory_font s.cfg.font, fun _ => memRead_fontMemory_rest s.cfg.font,
    getV_hostReset s, rfl, rfl, fun y x _ _ => cell_blankFrame y x, rfl, rfl, rfl, rfl, hostReset_key s, rfl, rfl, rfl⟩

/-! ## load-program (R283) -/

/-- Settles O56: 3584 bytes from 0x200 upward end at the top of memory, so no address of the block wraps. -/
theorem loadProgramCopiesOrRefuses : Obligations.LoadProgramCopiesOrRefuses := by
  intro s bytes
  refine ⟨fun hlen => ⟨_, hostLoadProgram_of_le s hlen, rfl, fun k hk => ?copied, fun a ha hoff => ?kept⟩,
    hostLoadProgram_of_gt s⟩
  case copied => exact memRead_memWriteBytes_at bytes _ loadAddress _ k hk (by omega) rfl
  case kept =>
    refine memRead_memWriteBytes_off bytes _ loadAddress a fun k hk => ?_
    simp only [loadAddress]
    omega

/-! ## Parking (R302) -/

/-- An address below 0x1000 is the literal of a jump to it (R93, R125). -/
theorem addrWord_setWidth {w : Word} (hw : w.toNat ≤ 0x0FFF) : addrWord (w.setWidth 12) = w := by
  apply BitVec.eq_of_toNat_eq
  rw [addrWord_toNat, BitVec.toNat_setWidth]
  omega

theorem encode_jp (nnn : Addr12) : encode (.jp nnn) = 0x1000 + addrWord nnn := by
  apply BitVec.eq_of_toNat_eq
  simp only [encode, formatNNN_toNat, BitVec.toNat_add, addrWord_toNat, BitVec.reduceToNat]
  omega

theorem State.Parked.decodeWord_fetchWord {s : State} (hs : s.Parked) :
    decodeWord (fetchWord s) = .ok (.jp (s.pc.setWidth 12)) := by
  obtain ⟨-, hpc, hword⟩ := hs
  rw [decodeWord_eq_ok_iff, decodeInstr_eq_some_iff, encode_jp, addrWord_setWidth hpc, hword]

/-- The cycle of a parked state is its timer step: the jump takes `PC` back to where the fetch found it. -/
theorem State.Parked.step_eq {s : State} (hs : s.Parked) : step s = .next (timerStep s) := by
  have ⟨hrun, hpc, _⟩ := hs
  have hjp : exec (.jp (s.pc.setWidth 12)) (advancePc s) = .next s := by
    change Host.Outcome.next (setPc s (addrWord (s.pc.setWidth 12))) = _
    rw [addrWord_setWidth hpc]
    rfl
  exact step_of_exec_running hrun hs.decodeWord_fetchWord hjp hrun

theorem timerStep_parked {s : State} (hs : s.Parked) : (timerStep s).Parked := by
  simpa [State.Parked, fetchWord] using hs

/-- Settles O46: the timer step leaves `STATUS`, `PC` and memory, which are all that parking speaks of. -/
theorem parkedStaysParked : Obligations.ParkedStaysParked := fun s hs =>
  ⟨timerStep s, hs.step_eq, timerStep_eq s, timerStep_parked hs⟩

end Sys2Proof.Machine
end

section
/-! PROOFS. Words written out (family other): each listed word is what its instruction encodes to, and so decodes to it. -/

namespace Sys2Proof

theorem decodeWord_of_encode {w : Word} {i : Instr} (h : encode i = w) : decodeWord w = .ok i :=
  (decodeWord_eq_ok_iff w i).mpr ((decodeInstr_eq_some_iff w i).mpr h)

/-- Settles O5: the encoder gives each of the seventeen words, and the other two lie in the sets of families 5 and 0 that
O4 says are unrecognised. -/
theorem listedWordsDecodeAsListed : Obligations.ListedWordsDecodeAsListed := by
  have h5121 : opField 0x5121 = 0x5 ∧ nField 0x5121 ≠ 0x0 := by decide
  have h01E0 : opField 0x01E0 = 0x0 ∧ (0x01E0 : Word) ≠ 0x00E0 ∧ (0x01E0 : Word) ≠ 0x00EE := by decide
  refine ⟨?_, ?_, ?_, ?_, ?_, ?_, ?_, ?_, ?_, ?_, ?_, ?_, ?_, ?_, ?_, ?_, ?_,
    (unrecognisedWordsAreTheSixSets 0x5121).mpr (.inr (.inl h5121)),
    (unrecognisedWordsAreTheSixSets 0x01E0).mpr (.inl h01E0)⟩
  all_goals exact decodeWord_of_encode rfl

end Sys2Proof
end
